-- ==== Sys2Proof/Word.lean ====
section
/-! DEFINITION. The widths of the block: host registers are 32-bit words, device addresses and device
data are bytes (00_scope.md R13, 20_memory.md R70 and R71). -/

namespace Sys2Proof

/-- A host register, a command word, an operand or a result: 32 bits (R13, R30, R100). -/
abbrev Word := BitVec 32

/-- A device register address or a device data byte: 8 bits (R13, R71). -/
abbrev Byte := BitVec 8

end Sys2Proof
end

