-- ==== Sys2Proof/Config.lean ====
section
/-! DEFINITION. What is fixed before reset (00_scope.md R12, 70_reset_and_hazards.md R340) and what
the spec leaves to the BUS agent (42_protocol.md R231). The parameters are plain data that State
carries and no step changes (log 1), so a statement about every state is about every profile; their
default values are in Machine/Profile.lean. The free values have no body: nothing can evaluate them. -/

namespace Sys2Proof

/-- DEVMAP: the device registers and values the block writes, named by role (R12, R311). -/
structure DevMap where
  oeReg       : Byte
  clkCtrl0    : Byte
  clkCtrl1    : Byte
  clkCtrl2    : Byte
  clkCtrl3    : Byte
  clkCtrl4    : Byte
  clkCtrl5    : Byte
  clkCtrl6    : Byte
  clkCtrl7    : Byte
  pllBaseA    : Byte
  pllBaseB    : Byte
  msBase0     : Byte
  msBase1     : Byte
  msBase2     : Byte
  phaseReg0   : Byte
  phaseReg1   : Byte
  phaseReg2   : Byte
  pllResetReg : Byte
  pllResetVal : Byte
  xtalLoadReg : Byte
  xtalLoadVal : Byte
  deriving DecidableEq, Repr

/-- The parameters of a model (R12, and HOST_BASE of R70). -/
structure Params where
  /-- READY_LIMIT: failed probes before a write gives up; 0 is never (R12, R230). -/
  readyLimit : Nat
  dev        : DevMap
  /-- DEV_BUS_ADDR, passed to BUS unchanged (R12); 7 bits (R311). -/
  devBusAddr : BitVec 7
  /-- HOST_BASE divided by 64: HOST_BASE is a multiple of 64 (R70). -/
  hostPage   : Nat
  deriving DecidableEq, Repr

/-- BUS's answer to one device-ready probe (R230, R231). -/
inductive Probe where
  | ready
  | notReady
  deriving DecidableEq, Repr, Inhabited

/-- BUS's answer to one write: accepted, or a fault with an 8-bit code (R35, R230). -/
inductive WriteOutcome where
  | ok
  | fault (code : Byte)
  deriving DecidableEq, Repr, Inhabited

/-- FREE VALUE: BUS's answer to a probe that `State.bus` holds no chosen answer for, applied to the
count of free answers drawn so far (R231: "each probe answer and each write outcome is a free
choice of the BUS agent"; log 3). -/
opaque Config.freeProbe : Nat → Probe

/-- FREE VALUE: BUS's answer to a write that `State.bus` holds no chosen answer for (R231; log 3). -/
opaque Config.freeOutcome : Nat → WriteOutcome

/-- FREE VALUE: the quotient of a dividend by 0, which the solver's pseudocode reaches only from a
CAL outside its legal range, and so in no run (R34, R144; log 11). -/
opaque Config.freeQuotient : Int → Int

end Sys2Proof
end

