-- ==== Sys2Proof/Syntax.lean ====
section
/-! DEFINITION. The nine commands, one constructor per row of spec/opcode_table.json (30_encoding.md
R104). A constructor holds exactly the fields its command reads; the 32-bit operands are not part of
the word, they are latched from ARG0..ARG2 (R100, R101). Every field is as wide as in CMD32 (R100),
so every term is encodable. -/

namespace Sys2Proof

/-- PLL identity, field PLL: 0 is PLL A, 1 is PLL B (R100). -/
inductive Pll where
  | a
  | b
  deriving DecidableEq, Repr

/-- Field KIND of DERIVE: 0 is a PLL configuration, 1 a divider configuration (R100). -/
inductive Kind where
  | pll
  | div
  deriving DecidableEq, Repr

/-- A command, with the fields its rule reads (R104). -/
inductive Instr where
  /-- INIT (OP 0x1; 42_protocol.md R240). -/
  | init
  /-- SOLVE (OP 0x2; 40_solver.md R155). -/
  | solve
  /-- SOLVE_IQ (OP 0x3; 40_solver.md R174). -/
  | solveIq
  /-- DERIVE (OP 0x4; 41_encoder.md R200). -/
  | derive (kind : Kind) (rsel : BitVec 3)
  /-- SETUP_PLL (OP 0x5; 42_protocol.md R250). -/
  | setupPll (pll : Pll)
  /-- SETUP_OUTPUT (OP 0x6; 42_protocol.md R260). -/
  | setupOutput (chan : Byte) (pll : Pll) (drive : BitVec 2) (aim : Bool) (rsel : BitVec 3)
      (phase : Byte)
  /-- SET_OE (OP 0x7; 42_protocol.md R270). -/
  | setOe (mask : Byte)
  /-- SETUP_CLK0 (OP 0x8; 42_protocol.md R275). -/
  | setupClk0 (drive : BitVec 2)
  /-- SETUP_CLK2 (OP 0x9; 42_protocol.md R276). -/
  | setupClk2 (drive : BitVec 2)
  deriving DecidableEq, Repr

end Sys2Proof
end

