-- ==== Sys2Proof/Machine/Profile.lean ====
section
/-! DEFINITION. Reading DEVMAP by role, the conditions on a DEVMAP (20_memory.md R72, 42_protocol.md
R251), and the default profile (60_exceptions.md R311). -/

namespace Sys2Proof.Machine

/-- One of the three channels the block configures (NCH = 3, 00_scope.md R10). -/
inductive Channel where
  | ch0
  | ch1
  | ch2
  deriving DecidableEq, Repr

/-- The channel a CHAN byte names; none for an index above 2 (R260, first check). -/
def channelOf (ch : Byte) : Option Channel :=
  match ch.toNat with
  | 0 => some .ch0
  | 1 => some .ch1
  | 2 => some .ch2
  | _ => none

/-- CLK_CTRL[ch] (R311). -/
def clkCtrl (d : DevMap) : Channel → Byte
  | .ch0 => d.clkCtrl0
  | .ch1 => d.clkCtrl1
  | .ch2 => d.clkCtrl2

/-- CLK_CTRL[0..7] in ascending order (NCTRL = 8, R10; R240). -/
def clkCtrlAll (d : DevMap) : List Byte :=
  [d.clkCtrl0, d.clkCtrl1, d.clkCtrl2, d.clkCtrl3, d.clkCtrl4, d.clkCtrl5, d.clkCtrl6, d.clkCtrl7]

/-- PLL_BASE[p] (R311). -/
def pllBase (d : DevMap) : Pll → Byte
  | .a => d.pllBaseA
  | .b => d.pllBaseB

/-- MS_BASE[ch] (R311). -/
def msBase (d : DevMap) : Channel → Byte
  | .ch0 => d.msBase0
  | .ch1 => d.msBase1
  | .ch2 => d.msBase2

/-- PHASE_REG[ch] (R311). -/
def phaseReg (d : DevMap) : Channel → Byte
  | .ch0 => d.phaseReg0
  | .ch1 => d.phaseReg1
  | .ch2 => d.phaseReg2

/-- R72: every parameter block fits, base + 7 ≤ 0xFF. -/
def basesFit (d : DevMap) : Bool :=
  [d.pllBaseA, d.pllBaseB, d.msBase0, d.msBase1, d.msBase2].all fun b => b.toNat ≤ 0xF8

/-- The number of bits set in a byte. -/
def bitCount (b : Byte) : Nat :=
  ((List.range 8).filter fun k => b.getLsbD k).length

/-- R251: "PLL_RESET_VAL has exactly two bits set, one per PLL". -/
def resetValTwoBits (d : DevMap) : Bool :=
  bitCount d.pllResetVal == 2

/-- The default DEVMAP, the Si5351 register map as R311 lists it (D18 to D23; general knowledge by
the spec's own mark, log 1). -/
def defaultDevMap : DevMap where
  oeReg       := 3
  clkCtrl0    := 16
  clkCtrl1    := 17
  clkCtrl2    := 18
  clkCtrl3    := 19
  clkCtrl4    := 20
  clkCtrl5    := 21
  clkCtrl6    := 22
  clkCtrl7    := 23
  pllBaseA    := 26
  pllBaseB    := 34
  msBase0     := 42
  msBase1     := 50
  msBase2     := 58
  phaseReg0   := 165
  phaseReg1   := 166
  phaseReg2   := 167
  pllResetReg := 177
  pllResetVal := 0xA0
  xtalLoadReg := 183
  xtalLoadVal := 0xC0

/-- The default profile: READY_LIMIT = 0 (D25), DEV_BUS_ADDR = 0x60 (R311). HOST_BASE = 0 is a
DESIGN CHOICE, the spec gives it no default (log 1). -/
def defaultParams : Params where
  readyLimit := 0
  dev        := defaultDevMap
  devBusAddr := 0x60
  hostPage   := 0

end Sys2Proof.Machine
end

