-- ==== Sys2Proof/WellFormed.lean ====
section
/-! DEFINITION. What is well formed: a command word (30_encoding.md R105, R106) and a DEVMAP
(20_memory.md R72, 42_protocol.md R251). A term of Instr needs no check of its own: its fields have
the widths of CMD32 (R100), and an operand outside a command's documented range is not an ill-formed
command but one that ends with an error (R107). -/

namespace Sys2Proof

/-- The bits that select a command: OP and the reserved bits 7 and 15:13 (R105). -/
def selectMask : Word := 0x0000E08F

/-- R105: a word selects a command when, under the mask, it is an opcode 0x1 to 0x9. -/
def legalWord (w : Word) : Bool :=
  1 ≤ (w &&& selectMask).toNat && (w &&& selectMask).toNat ≤ 9

/-- A DEVMAP the model admits (R72, and R251's condition on PLL_RESET_VAL; log 10). -/
def DevMap.wellFormed (d : DevMap) : Bool :=
  Machine.basesFit d && Machine.resetValTwoBits d

end Sys2Proof
end

