-- ==== Sys2Proof/Decode.lean ====
section
/-! DEFINITION. Decoding of a command word (30_encoding.md R100 to R106), total, with a named reason
where a word is illegal, and after it the encoder (R100, R110). -/

namespace Sys2Proof

/-- Why a word is no command (R103, R106). -/
inductive Illegal where
  /-- Bit 7 or one of bits 15:13 is set. -/
  | reservedBit
  /-- OP is 0x0 or 0xA to 0xF. -/
  | reservedOpcode
  deriving DecidableEq, Repr

/-- Field PLL, bit 4 (R100). -/
def pllOfBit (b : Bool) : Pll := if b then .b else .a

/-- Field KIND, bit 5 (R100). -/
def kindOfBit (b : Bool) : Kind := if b then .div else .pll

/-- OP, bits 3:0 (R100). -/
def opField (w : Word) : BitVec 4 := w.extractLsb' 0 4
/-- PLL, bit 4 (R100). -/
def pllField (w : Word) : Pll := pllOfBit (w.getLsbD 4)
/-- KIND, bit 5 (R100). -/
def kindField (w : Word) : Kind := kindOfBit (w.getLsbD 5)
/-- AIM, bit 6 (R100). -/
def aimField (w : Word) : Bool := w.getLsbD 6
/-- RSEL, bits 10:8 (R100). -/
def rselField (w : Word) : BitVec 3 := w.extractLsb' 8 3
/-- DRIVE, bits 12:11 (R100). -/
def driveField (w : Word) : BitVec 2 := w.extractLsb' 11 2
/-- CHAN, bits 23:16 (R100). -/
def chanField (w : Word) : Byte := w.extractLsb' 16 8
/-- IMM8, bits 31:24 (R100). -/
def imm8Field (w : Word) : Byte := w.extractLsb' 24 8

/-- R103. Fields a command does not read are ignored; a reserved opcode or bit is refused by name. -/
def decode (w : Word) : Except Illegal Instr :=
  if w.getLsbD 7 ∨ w.extractLsb' 13 3 ≠ 0#3 then .error .reservedBit
  else
    match (opField w).toNat with
    | 0x1 => .ok .init
    | 0x2 => .ok .solve
    | 0x3 => .ok .solveIq
    | 0x4 => .ok (.derive (kindField w) (rselField w))
    | 0x5 => .ok (.setupPll (pllField w))
    | 0x6 => .ok (.setupOutput (chanField w) (pllField w) (driveField w) (aimField w) (rselField w)
                   (imm8Field w))
    | 0x7 => .ok (.setOe (imm8Field w))
    | 0x8 => .ok (.setupClk0 (driveField w))
    | 0x9 => .ok (.setupClk2 (driveField w))
    | _   => .error .reservedOpcode

/-- The bit of field PLL. -/
def pllBit : Pll → Bool
  | .a => false
  | .b => true

/-- The bit of field KIND. -/
def kindBit : Kind → Bool
  | .pll => false
  | .div => true

/-- CMD32, bit 31 first: IMM8, CHAN, 000, DRIVE, RSEL, 0, AIM, KIND, PLL, OP (R100). -/
def cmd32 (imm8 chan : Byte) (drive : BitVec 2) (rsel : BitVec 3) (aim kind pll : Bool)
    (op : BitVec 4) : Word :=
  imm8 ++ chan ++ 0#3 ++ drive ++ rsel ++ 0#1 ++ BitVec.ofBool aim ++ BitVec.ofBool kind ++
    BitVec.ofBool pll ++ op

/-- The command word of a command, fields it does not read zero (R108, R110). -/
def encode : Instr → Word
  | .init => cmd32 0 0 0 0 false false false 0x1
  | .solve => cmd32 0 0 0 0 false false false 0x2
  | .solveIq => cmd32 0 0 0 0 false false false 0x3
  | .derive kind rsel => cmd32 0 0 0 rsel false (kindBit kind) false 0x4
  | .setupPll pll => cmd32 0 0 0 0 false false (pllBit pll) 0x5
  | .setupOutput chan pll drive aim rsel phase =>
      cmd32 phase chan drive rsel aim false (pllBit pll) 0x6
  | .setOe mask => cmd32 mask 0 0 0 false false false 0x7
  | .setupClk0 drive => cmd32 0 0 drive 0 false false false 0x8
  | .setupClk2 drive => cmd32 0 0 drive 0 false false false 0x9

/-- The opcode of a command (R104). -/
def opcode : Instr → BitVec 4
  | .init => 0x1
  | .solve => 0x2
  | .solveIq => 0x3
  | .derive .. => 0x4
  | .setupPll .. => 0x5
  | .setupOutput .. => 0x6
  | .setOe .. => 0x7
  | .setupClk0 .. => 0x8
  | .setupClk2 .. => 0x9

/-- The command read from a table row's bits: every command is one 32-bit word (R101), the bits
above `nbits` are 0. -/
def decodeTableWord (nbits w : Nat) : Option Instr :=
  match decode (BitVec.ofNat 32 (w % 2 ^ nbits)) with
  | .ok i => some i
  | .error _ => none

end Sys2Proof
end

