-- ==== Sys2Proof/Machine/State.lean ====
section
/-! DEFINITION. The state of the block and of the two agents it works with, as plain data
(10_state.md R30 to R40; 70_reset_and_hazards.md R340), the reasons a step stops, and reset. -/

namespace Sys2Proof.Machine

/-- The error codes of STATUS.ERR (60_exceptions.md R300), code 0 first. -/
inductive ErrCode where
  | noError
  | invalidChannel
  | unsupportedDividerMode
  | invalidCalibration
  | zeroDenominator
  | illegalCommand
  | busFault
  | busNotReady
  deriving DecidableEq, Repr

/-- The fields of STATUS (R32). Bits 31:7 have no storage and read as 0. -/
structure Status where
  busy     : Bool
  done     : Bool
  initDone : Bool
  ovr      : Bool
  err      : ErrCode
  deriving DecidableEq, Repr

/-- ARG0 to ARG2, or the latched copies of them (R36, R40). -/
structure Args where
  a0 : Word
  a1 : Word
  a2 : Word
  deriving DecidableEq, Repr

/-- RES0 to RES7 (R37). -/
structure Results where
  r0 : Word
  r1 : Word
  r2 : Word
  r3 : Word
  r4 : Word
  r5 : Word
  r6 : Word
  r7 : Word
  deriving DecidableEq, Repr

/-- The latched command L: the word and the copies of ARG0..ARG2 (R40). -/
structure Latch where
  cmd  : Word
  args : Args
  deriving DecidableEq, Repr

/-- SEQ (R39). -/
inductive Seq where
  | idle
  | exec
  | issue
  deriving DecidableEq, Repr

/-- One device register write of a command's list Q, or one entry of the write log (R19, R39). -/
structure Write where
  reg  : Byte
  data : Byte
  deriving DecidableEq, Repr

/-- PEND: what a completion commits (R39, R306). -/
structure Pending where
  res  : Option Results
  cal  : Option Word
  init : Bool
  deriving DecidableEq, Repr

/-- Host programs whose operands are results the block has not given yet (30_encoding.md R109 (b),
(c)). The block sees only their expansions (log 12). -/
inductive Pseudo where
  /-- SETUP_SOLVED ch, pll, drive, phase. -/
  | setupSolved (chan : Byte) (pll : Pll) (drive : BitVec 2) (phase : Byte)
  /-- QUADPAIR chA, chB, pll, drive, freq. -/
  | quadPair (chanA chanB : Byte) (pll : Pll) (drive : BitVec 2) (freq : Word)
  /-- The part of QUADPAIR that follows its SOLVE_IQ and reads that command's results. -/
  | quadOutputs (chanA chanB : Byte) (pll : Pll) (drive : BitVec 2)
  deriving DecidableEq, Repr

/-- What the world outside the block does next at the host side (log 2). -/
inductive HostEvent where
  /-- The host does nothing; CORE and BUS take a step. -/
  | pass
  /-- A read of the register at a word offset (R30, R31). -/
  | read (off : BitVec 4)
  /-- A write of the register at a word offset (R33, R41, R42, R43). -/
  | write (off : BitVec 4) (v : Word)
  /-- A read at a platform byte address, `size` bytes wide (R70). -/
  | busRead (addr size : Nat)
  /-- A write at a platform byte address, `size` bytes wide (R70). -/
  | busWrite (addr size : Nat) (v : Word)
  /-- WAIT: STATUS is read until BUSY = 0 (R109 (a)). -/
  | wait
  /-- A host program is expanded (R109). -/
  | pseudo (p : Pseudo)
  /-- The block's reset input is asserted, then released (R340, R341). -/
  | reset
  deriving DecidableEq, Repr

/-- One probe or one write at the BUS port with BUS's answer and the device bus address (R230). -/
inductive BusEvent where
  | probe (dev : BitVec 7) (answer : Probe)
  | write (dev : BitVec 7) (w : Write) (answer : WriteOutcome)
  deriving DecidableEq, Repr

/-- The BUS agent (R8, R231; log 3, log 7). -/
structure BusPort where
  /-- Probe answers already chosen, the next first; when empty, answers are free. -/
  probes   : List Probe
  /-- Write outcomes already chosen, the next first; when empty, outcomes are free. -/
  outcomes : List WriteOutcome
  /-- How many free answers have been drawn: the MODEL's own counter. -/
  draws    : Nat
  /-- Everything BUS has answered, in order, kept across a reset of the block (R342). -/
  trace    : List BusEvent
  deriving DecidableEq, Repr

/-- The state. The block's own fields come first, then the parameters, then the other agents. -/
structure State where
  /-- CMD: the last accepted command word (R30, R41). -/
  cmd      : Word
  /-- STATUS (R32). -/
  status   : Status
  /-- CAL: the calibration correction, read as s32 (R34). -/
  cal      : Word
  /-- BUSFAULT (R35). -/
  busFault : Word
  /-- ARG0..ARG2 (R36). -/
  args     : Args
  /-- RES0..RES7 (R37). -/
  res      : Results
  /-- L, the latched command (R40). -/
  latch    : Latch
  /-- SEQ (R39). -/
  seq      : Seq
  /-- Q, the write list of the current command (R39). -/
  q        : List Write
  /-- WIDX, the index in Q of the next write (R39). -/
  widx     : Nat
  /-- PCNT, the failed probes for the write at WIDX (R39). -/
  pcnt     : Nat
  /-- PEND (R39). -/
  pend     : Option Pending
  /-- The probe for the write at WIDX has answered ready and the write is with BUS: the point
  between the two BUS steps of R230 (DEDUCED from R230 and R370, log 4). -/
  inWrite  : Bool
  /-- The write log (R19, R230). -/
  log      : List Write
  /-- READY_LIMIT, DEVMAP, DEV_BUS_ADDR, HOST_BASE (R12, R70): no step changes them (R340). -/
  par      : Params
  /-- HOST: its coming events, the next first (log 2). -/
  inputs   : List HostEvent
  /-- HOST: the value its last read returned (R31, log 8). -/
  rdata    : Word
  /-- BUS (R8, R231). -/
  bus      : BusPort
  deriving DecidableEq, Repr

/-- Why the machine stops with a fault. -/
inductive Fault where
  /-- Raised by a host access that is not 4 bytes wide or not at a multiple of 4: "a model gives it
  no step (the host agent is stuck)" (R70; 93 item 11). Safe: a platform that completes such an
  access has runs the model lacks, none that the model has wrong. -/
  | hostAccessNotAdmitted
  /-- Raised by a host access at a platform address outside the block's sixteen words (R70, log 9).
  Safe: the spec names no register there. -/
  | hostAddressOutsideBlock
  deriving DecidableEq, Repr

/-- Why the machine refuses to go on. -/
inductive Refusal where
  /-- Raised by an arm of `exec` for an instruction that has no meaning yet; no arm does. Safe. -/
  | notModelled (mnemonic : String)
  /-- Raised by `step` when the DEVMAP is ill-formed: "a model refuses it" (R72; 93 item 12; log 10
  for R251). Safe: nothing runs. -/
  | illFormedDevMap
  deriving DecidableEq, Repr

/-- All eight results zero. -/
def Results.zero : Results := ⟨0, 0, 0, 0, 0, 0, 0, 0⟩

/-- BUS when nothing has been chosen or answered (log 3, log 7). -/
def BusPort.fresh : BusPort := ⟨[], [], 0, []⟩

/-- The block right after reset, for a profile (R340). The block's fields have the values R340
lists; the model's own `inWrite` and the other agents are at rest (log 2 to log 4, log 7, log 8). -/
def State.powerOn (p : Params) : State where
  cmd      := 0
  status   := ⟨false, false, false, false, .noError⟩
  cal      := 0
  busFault := 0
  args     := ⟨0, 0, 0⟩
  res      := Results.zero
  latch    := ⟨0, ⟨0, 0, 0⟩⟩
  seq      := .idle
  q        := []
  widx     := 0
  pcnt     := 0
  pend     := none
  inWrite  := false
  log      := []
  par      := p
  inputs   := []
  rdata    := 0
  bus      := BusPort.fresh

/-- The machine right after reset, with the default profile (R340, R311). -/
def State.reset : State := State.powerOn defaultParams

end Sys2Proof.Machine
end

