-- ==== Sys2Proof/Machine/Operands.lean ====
section
/-! DEFINITION. Reading operands and the arithmetic of the pseudocode (00_scope.md R15, R16;
30_encoding.md R102). Everything is computed on integers and narrowed at the end. -/

namespace Sys2Proof.Machine

/-- `u32(v)` = v mod 2^32 as a word (R15). -/
def u32 (v : Int) : Word := BitVec.ofInt 32 v

/-- `s32(v)`: a word read as two's complement (R15). -/
def s32 (w : Word) : Int := w.toInt

/-- A word read as unsigned (R15, R36). -/
def uns (w : Word) : Nat := w.toNat

/-- `zext_32` of a byte (R15). -/
def zext32 (b : Byte) : Word := b.setWidth 32

/-- `v[hi:lo]` as `len` bits from bit `lo` (R15). -/
def bits (w : Word) (lo len : Nat) : BitVec len := w.extractLsb' lo len

/-- `a quot b`: division truncating toward zero (R16). A zero divisor, which no run reaches, gives a
free value (log 11). -/
def quot (a b : Int) : Int := if b = 0 then Config.freeQuotient a else a.tdiv b

/-- `a rem b` = a − b × (a quot b) (R16). -/
def rem (a b : Int) : Int := a - b * quot a b

/-- `a >> k` = floor(a / 2^k) (R16). -/
def shr (a : Int) (k : Nat) : Int := a / 2 ^ k

/-- `clamp(v, lo, hi)` (R16). -/
def clamp (v lo hi : Int) : Int := if v < lo then lo else if v > hi then hi else v

/-- ARG0 of the latched command read as s32: a frequency or a correction (R36, R102). -/
def signedArg0 (s : State) : Int := s32 s.latch.args.a0

/-- CAL read as a signed number (R34). -/
def calibration (s : State) : Int := s32 s.cal

end Sys2Proof.Machine
end

