-- ==== Sys2Proof/Machine/Flags.lean ====
section
/-! DEFINITION. STATUS, the block's only flags (10_state.md R32, R33, R48): its word, and the three
events that write it. -/

namespace Sys2Proof.Machine

/-- The number of an error code (60_exceptions.md R300). -/
def ErrCode.code : ErrCode → BitVec 3
  | .noError => 0
  | .invalidChannel => 1
  | .unsupportedDividerMode => 2
  | .invalidCalibration => 3
  | .zeroDenominator => 4
  | .illegalCommand => 5
  | .busFault => 6
  | .busNotReady => 7

/-- STATUS as the host reads it: ERR 6:4, OVR 3, INIT_DONE 2, DONE 1, BUSY 0, the rest 0 (R32). -/
def Status.toWord (st : Status) : Word :=
  0#25 ++ st.err.code ++ BitVec.ofBool st.ovr ++ BitVec.ofBool st.initDone ++
    BitVec.ofBool st.done ++ BitVec.ofBool st.busy

/-- Acceptance of a command (R41): BUSY set, DONE and ERR cleared, INIT_DONE and OVR kept. That ERR is
cleared here, as R41 and R307 say, though R48 has completion alone write it and R350 has it hold until
then, is the model's choice (DESIGN CHOICE, log 19). -/
def Status.accepted (st : Status) : Status :=
  { st with busy := true, done := false, err := .noError }

/-- Completion of a command (60_exceptions.md R306): ERR, DONE and BUSY, and INIT_DONE where the
completion sets it. OVR is kept (R48). -/
def Status.completed (st : Status) (e : ErrCode) (init : Bool) : Status :=
  { st with busy := false, done := true, err := e, initDone := st.initDone || init }

/-- A CMD write while BUSY (R42). -/
def Status.overrun (st : Status) : Status := { st with ovr := true }

/-- A host write of `v` to STATUS: bit 3 clears OVR, the other bits are ignored (R33). -/
def Status.write (st : Status) (v : Word) : Status :=
  { st with ovr := st.ovr && !v.getLsbD 3 }

end Sys2Proof.Machine
end

