-- ==== Sys2Proof/Machine/Ops.lean ====
section
/-! DEFINITION. The shared operations on the state: accepting a command (10_state.md R41), ending one
(60_exceptions.md R306: the block's taking of an exception; the return from it is the next
acceptance, R307), and what an EXEC step does with a command's computation (10_state.md R44). -/

namespace Sys2Proof.Machine

/-- The errors after which PEND is committed: none, and the two bus errors (R306). -/
def ErrCode.commits : ErrCode → Bool
  | .noError | .busFault | .busNotReady => true
  | .invalidChannel | .unsupportedDividerMode | .invalidCalibration | .zeroDenominator
  | .illegalCommand => false

/-- RES after a completion (R306). -/
def committedRes (e : ErrCode) (s : State) : Results :=
  if e.commits then (s.pend.bind Pending.res).getD s.res else s.res

/-- CAL after a completion (R306). -/
def committedCal (e : ErrCode) (s : State) : Word :=
  if e.commits then (s.pend.bind Pending.cal).getD s.cal else s.cal

/-- Whether a completion sets INIT_DONE: no error and PEND.INIT = 1 (R306). -/
def setsInitDone (e : ErrCode) (s : State) : Bool :=
  e == .noError && (s.pend.map Pending.init).getD false

/-- `complete(err)`, which is also `raise Error(err)` (R17, R306): the end of the current command.
BUSFAULT has been written by the bus fault, if there was one (R230). The latched command, CMD, the
arguments and the write log stay (R306 does not name them, log 15). Nothing falls between this and what
ended the command, a bus fault's writing of BUSFAULT included (R83, log 6). -/
def complete (e : ErrCode) (s : State) : State :=
  { s with
    res := committedRes e s
    cal := committedCal e s
    status := s.status.completed e (setsInitDone e s)
    seq := .idle
    q := []
    widx := 0
    pcnt := 0
    pend := none
    inWrite := false }

/-- A host write of `v` to CMD while BUSY = 0 (R41), one atomic step. It clears ERR and BUSFAULT, as R41
and R35 say and R350 does not (DESIGN CHOICE, log 19). -/
def accept (v : Word) (s : State) : State :=
  { s with
    cmd := v
    latch := ⟨v, s.args⟩
    status := s.status.accepted
    busFault := 0
    q := []
    widx := 0
    pcnt := 0
    pend := none
    inWrite := false
    seq := .exec }

/-- What a command's computation gives: PEND and the write list Q (R44). -/
structure Plan where
  pend   : Option Pending
  writes : List Write
  deriving DecidableEq, Repr

/-- A plan that only gives results: SOLVE, SOLVE_IQ, DERIVE (R155, R174, R200). -/
def Plan.results (r : Results) : Plan := ⟨some ⟨some r, none, false⟩, []⟩

/-- The end of an EXEC step whose validation passed: PEND and Q are set and SEQ goes to ISSUE, or
the command completes at once, in the same step, if Q is empty (R44; log 6 for R370's count). -/
def launch (p : Plan) (s : State) : State :=
  match p.writes with
  | [] => complete .noError { s with pend := p.pend }
  | w :: ws =>
    { s with pend := p.pend, q := w :: ws, widx := 0, pcnt := 0, inWrite := false, seq := .issue }

/-- The EXEC step of a command (R44): a validation error ends it, before PEND is set and with no
write issued (R303, R306), in this one atomic step; otherwise its plan is launched. -/
def execPlan (r : Except ErrCode Plan) (s : State) : Host.Outcome State Fault Refusal :=
  match r with
  | .error e => .next (complete e s)
  | .ok p => .next (launch p s)

end Sys2Proof.Machine
end

