-- ==== Sys2Proof/Machine/Encoder.lean ====
section
/-! DEFINITION. Parameter derivation and 20-bit field packing (41_encoder.md), and the command
DERIVE. -/

namespace Sys2Proof.Machine

/-- P1, P2, P3 and DB4 (R190). -/
structure Parms where
  p1  : Word
  p2  : Word
  p3  : Word
  db4 : BitVec 2
  deriving DecidableEq, Repr

/-- DERIVE_P(kind, ip, num, den) (R190): the divide-by-4 special case of a divider comes before the
denominator check; 128 × num and P1 wrap modulo 2^32. -/
def deriveP (kind : Kind) (ip num den : Word) : Except ErrCode Parms :=
  if kind = .div ∧ uns ip = 4 then .ok ⟨0, 0, 1, 0b11⟩
  else if uns den = 0 then .error .zeroDenominator
  else
    let m := 128 * uns num % 2 ^ 32
    .ok ⟨u32 (128 * uns ip + (m / uns den : Nat) - 512), u32 (m % uns den : Nat), den, 0b00⟩

/-- The eight bytes of a parameter block (R21, R194). -/
structure Block where
  b0 : Byte
  b1 : Byte
  b2 : Byte
  b3 : Byte
  b4 : Byte
  b5 : Byte
  b6 : Byte
  b7 : Byte
  deriving DecidableEq, Repr

/-- PACK(P1, P2, P3, DB4, RS) (R194). -/
def pack (p : Parms) (rs : BitVec 3) : Block where
  b0 := bits p.p3 8 8
  b1 := bits p.p3 0 8
  b2 := 0#1 ++ rs ++ p.db4 ++ bits p.p1 16 2
  b3 := bits p.p1 8 8
  b4 := bits p.p1 0 8
  b5 := bits p.p3 16 4 ++ bits p.p2 16 4
  b6 := bits p.p2 8 8
  b7 := bits p.p2 0 8

/-- The parameters a block unpacks to (R196). -/
def unpackParms (b : Block) : Parms where
  p1  := 0#14 ++ b.b2.extractLsb' 0 2 ++ b.b3 ++ b.b4
  p2  := 0#12 ++ b.b5.extractLsb' 0 4 ++ b.b6 ++ b.b7
  p3  := 0#12 ++ b.b5.extractLsb' 4 4 ++ b.b0 ++ b.b1
  db4 := b.b2.extractLsb' 2 2

/-- The R-divider selector a block unpacks to (R196). -/
def unpackRsel (b : Block) : BitVec 3 := b.b2.extractLsb' 4 3

/-- WRITE_BULK(base, B) (R197): ascending addresses. A base above 0xF8 is refused before anything
runs (R72), so no address wraps. -/
def writeBulk (base : Byte) (b : Block) : List Write :=
  [⟨base + 0, b.b0⟩, ⟨base + 1, b.b1⟩, ⟨base + 2, b.b2⟩, ⟨base + 3, b.b3⟩,
   ⟨base + 4, b.b4⟩, ⟨base + 5, b.b5⟩, ⟨base + 6, b.b6⟩, ⟨base + 7, b.b7⟩]

/-- The layout of DERIVE's results: the byte of the lower device address in the more significant
bits (R75, R200). -/
def deriveResults (p : Parms) (b : Block) : Results where
  r0 := p.p1
  r1 := p.p2
  r2 := p.p3
  r3 := 0#30 ++ p.db4
  r4 := b.b0 ++ b.b1 ++ b.b2 ++ b.b3
  r5 := b.b4 ++ b.b5 ++ b.b6 ++ b.b7
  r6 := 0
  r7 := 0

/-- The R-divider selector DERIVE packs: RSEL for a divider, 0 for a PLL (R200). -/
def deriveRsel (kind : Kind) (rsel : BitVec 3) : BitVec 3 :=
  match kind with
  | .pll => 0
  | .div => rsel

/-- DERIVE's computation (R200). -/
def planDerive (kind : Kind) (rsel : BitVec 3) (a : Args) : Except ErrCode Plan :=
  match deriveP kind a.a0 a.a1 a.a2 with
  | .error e => .error e
  | .ok p => .ok (Plan.results (deriveResults p (pack p (deriveRsel kind rsel))))

/-- DERIVE (R200). -/
def execDerive (kind : Kind) (rsel : BitVec 3) (s : State) : Host.Outcome State Fault Refusal :=
  execPlan (planDerive kind rsel s.latch.args) s

end Sys2Proof.Machine
end

