-- ==== Sys2Proof/Machine/Solver.lean ====
section
/-! DEFINITION. Calibration multiplier and frequency solver (40_solver.md), and the commands SOLVE
and SOLVE_IQ. All arithmetic is exact integer arithmetic (R16, R146). -/

namespace Sys2Proof.Machine

/-- REF, the reference oscillator in Hz (00_scope.md R11). -/
def refHz : Int := 25000000

/-- CAL_SINGLE (R141): exact product, quotient truncated toward zero. -/
def calSingle (f cal : Int) : Int := f - quot (f * cal) 100000000

/-- CAL_QUAD (R142): whole megahertz first, then the product, then the quotient. -/
def calQuad (f cal : Int) : Int := f - quot (quot f 1000000 * cal) 100

/-- A PLL configuration (R21): the multiplier mult + num/denom. -/
structure PllConfig where
  mult  : Int
  num   : Int
  denom : Int
  deriving DecidableEq, Repr

/-- A divider configuration (R21): div + num/denom, integer mode allowed, R-divider selector. -/
structure DivConfig where
  div   : Int
  num   : Int
  denom : Int
  aim   : Bool
  rsel  : BitVec 3
  deriving DecidableEq, Repr

/-- What a solve returns: PC, DC and the adjusted frequency F (R145, R170). -/
structure Solution where
  pc   : PllConfig
  dc   : DivConfig
  freq : Int
  deriving DecidableEq, Repr

/-- The low branch of SOLVE1, adjusted frequency below 81 MHz (R145). -/
def solveLow (f : Int) (rsel : BitVec 3) : Solution :=
  let t := shr f 20 + 1
  { pc := ⟨36, 0, 1⟩
    dc := ⟨quot 900000000 f, quot (rem 900000000 f) t, quot f t, true, rsel⟩
    freq := f }

/-- The divider ladder of the high branch (R145). -/
def ladder (f : Int) : Int := if f ≥ 150000000 then 4 else if f ≥ 100000000 then 6 else 8

/-- The reduction factor of the high branch: (REF >> 20) + 1, which is 24 (R145). -/
def refFactor : Int := shr refHz 20 + 1

/-- The PLL configuration of an internal frequency n = x × F against REF (R145, R170). -/
def pllFor (n t : Int) : PllConfig := ⟨quot n refHz, quot (rem n refHz) t, quot refHz t⟩

/-- The high branch of SOLVE1, adjusted frequency from 81 MHz (R145). -/
def solveHigh (f : Int) (rsel : BitVec 3) : Solution :=
  { pc := pllFor (ladder f * f) refFactor
    dc := ⟨ladder f, 0, 1, true, rsel⟩
    freq := f }

/-- The clamped target, boosted ×64 below 1 MHz, and its R-divider selector (R145, step 1). -/
def boosted (f : Int) : Int × BitVec 3 :=
  let c := clamp f 8000 160000000
  if c < 1000000 then (c * 64, 6) else (c, 0)

/-- SOLVE1(f, CAL) (R145). -/
def solve1 (f cal : Int) : Solution :=
  let adj := calSingle (boosted f).1 cal
  if adj < 81000000 then solveLow adj (boosted f).2 else solveHigh adj (boosted f).2

/-- The divider of SOLVEIQ, by band (R170). -/
def quadDivider (f : Int) : Int :=
  if f < 4900000 then 127
  else if f < 8000000 then quot 625000000 f
  else quot 900000000 f

/-- SOLVEIQ(f, CAL) (R170): the reduction factor is 24. -/
def solveQuad (f cal : Int) : Solution :=
  let adj := calQuad (clamp f 1400000 100000000) cal
  { pc := pllFor (quadDivider adj * adj) 24
    dc := ⟨quadDivider adj, 0, 1, false, 0⟩
    freq := adj }

/-- The layout of a solve result in RES0..RES7 (R150). -/
def solveResults (r : Solution) : Results where
  r0 := u32 r.pc.mult
  r1 := u32 r.pc.num
  r2 := u32 r.pc.denom
  r3 := u32 r.dc.div
  r4 := u32 r.dc.num
  r5 := u32 r.dc.denom
  r6 := 0#28 ++ BitVec.ofBool r.dc.aim ++ r.dc.rsel
  r7 := u32 r.freq

/-- SOLVE (R155). -/
def execSolve (s : State) : Host.Outcome State Fault Refusal :=
  execPlan (.ok (Plan.results (solveResults (solve1 (signedArg0 s) (calibration s))))) s

/-- SOLVE_IQ (R174). -/
def execSolveIq (s : State) : Host.Outcome State Fault Refusal :=
  execPlan (.ok (Plan.results (solveResults (solveQuad (signedArg0 s) (calibration s))))) s

end Sys2Proof.Machine
end

