-- ==== Sys2Proof/Machine/Protocol.lean ====
section
/-! DEFINITION. The register protocol commands (42_protocol.md): INIT, SETUP_PLL, SETUP_OUTPUT,
SET_OE, SETUP_CLK0 and SETUP_CLK2. Each computes its write list; the writes are issued by
Machine/Bus.lean. -/

namespace Sys2Proof.Machine

/-- CAL_LIMIT: INIT accepts a correction of at most this magnitude (R241). -/
def calLimit : Int := 99999999

/-- The ten writes of INIT, in order (R240). -/
def initWrites (d : DevMap) : List Write :=
  ⟨d.oeReg, 0xFF⟩ :: ((clkCtrlAll d).map fun r => ⟨r, 0x80⟩) ++ [⟨d.xtalLoadReg, d.xtalLoadVal⟩]

/-- INIT's computation (R240). -/
def planInit (corr : Word) (d : DevMap) : Except ErrCode Plan :=
  if s32 corr < -calLimit ∨ s32 corr > calLimit then .error .invalidCalibration
  else .ok ⟨some ⟨none, some corr, true⟩, initWrites d⟩

/-- INIT (R240). -/
def execInit (s : State) : Host.Outcome State Fault Refusal :=
  execPlan (planInit s.latch.args.a0 s.par.dev) s

/-- The write list of SETUP_PLL (R250): the parameter block with DB4 and RS zero (R195), then the
reset of both PLLs, always (R251). -/
def pllWrites (d : DevMap) (p : Pll) (mult num den : Word) : Except ErrCode (List Write) :=
  match deriveP .pll mult num den with
  | .error e => .error e
  | .ok k =>
    .ok (writeBulk (pllBase d p) (pack { k with db4 := 0 } 0) ++ [⟨d.pllResetReg, d.pllResetVal⟩])

/-- SETUP_PLL (R250). -/
def execSetupPll (p : Pll) (s : State) : Host.Outcome State Fault Refusal :=
  execPlan ((pllWrites s.par.dev p s.latch.args.a0 s.latch.args.a1 s.latch.args.a2).map
    fun ws => ⟨none, ws⟩) s

/-- A divider reserved for integer mode (R262): every integer part below 8, and exactly 8. -/
def integerOnly (div num : Word) : Bool := uns div < 8 || (uns div == 8 && uns num == 0)

/-- The integer-mode bit of the control byte (R260). -/
def integerBit (aim : Bool) (div num : Word) : Bool := aim && (uns num == 0 || uns div == 4)

/-- The control byte (R263): powered on, integer mode, PLL source, not inverted, 0b11, drive. -/
def controlByte (int : Bool) (p : Pll) (drive : BitVec 2) : Byte :=
  0#1 ++ BitVec.ofBool int ++ BitVec.ofBool (pllBit p) ++ 0#1 ++ 0b11#2 ++ drive

/-- The write list of SETUP_OUTPUT (R260), with its checks in the source's order (R303): channel,
divider mode, denominator; control byte, parameter block, phase byte (R264), the phase masked to 7
bits (R266). -/
def outputWrites (d : DevMap) (chan : Byte) (p : Pll) (drive : BitVec 2) (div num den : Word)
    (aim : Bool) (rsel : BitVec 3) (phase : Byte) : Except ErrCode (List Write) :=
  match channelOf chan with
  | none => .error .invalidChannel
  | some ch =>
    if aim = false ∧ integerOnly div num then .error .unsupportedDividerMode
    else
      match deriveP .div div num den with
      | .error e => .error e
      | .ok k =>
        .ok (⟨clkCtrl d ch, controlByte (integerBit aim div num) p drive⟩ ::
          writeBulk (msBase d ch) (pack k rsel) ++ [⟨phaseReg d ch, phase &&& 0x7F⟩])

/-- SETUP_OUTPUT (R260). -/
def execSetupOutput (chan : Byte) (p : Pll) (drive : BitVec 2) (aim : Bool) (rsel : BitVec 3)
    (phase : Byte) (s : State) : Host.Outcome State Fault Refusal :=
  execPlan ((outputWrites s.par.dev chan p drive s.latch.args.a0 s.latch.args.a1 s.latch.args.a2
    aim rsel phase).map fun ws => ⟨none, ws⟩) s

/-- SET_OE (R270): one write of the complement of the mask of enabled channels. -/
def execSetOe (mask : Byte) (s : State) : Host.Outcome State Fault Refusal :=
  execPlan (.ok ⟨none, [⟨s.par.dev.oeReg, ~~~mask⟩]⟩) s

/-- The computation of the two wrappers (R275, R276): the solve's results, the PLL's write list and
then the output's. -/
def planClk (d : DevMap) (chan : Byte) (p : Pll) (drive : BitVec 2) (r : Solution) :
    Except ErrCode Plan :=
  match pllWrites d p (u32 r.pc.mult) (u32 r.pc.num) (u32 r.pc.denom) with
  | .error e => .error e
  | .ok ws =>
    match outputWrites d chan p drive (u32 r.dc.div) (u32 r.dc.num) (u32 r.dc.denom) r.dc.aim
        r.dc.rsel 0 with
    | .error e => .error e
    | .ok vs => .ok ⟨some ⟨some (solveResults r), none, false⟩, ws ++ vs⟩

/-- SETUP_CLK0 (R275): channel 0 from PLL A. -/
def execSetupClk0 (drive : BitVec 2) (s : State) : Host.Outcome State Fault Refusal :=
  execPlan (planClk s.par.dev 0 .a drive (solve1 (signedArg0 s) (calibration s))) s

/-- SETUP_CLK2 (R276): channel 2 from PLL B. -/
def execSetupClk2 (drive : BitVec 2) (s : State) : Host.Outcome State Fault Refusal :=
  execPlan (planClk s.par.dev 2 .b drive (solve1 (signedArg0 s) (calibration s))) s

end Sys2Proof.Machine
end

