-- ==== Sys2Proof/Machine/Dispatch.lean ====
section
/-! DEFINITION. The EXEC step of each command (10_state.md R44): one arm per constructor. -/

namespace Sys2Proof.Machine

def exec (i : Instr) (s : State) : Host.Outcome State Fault Refusal :=
  match i with
  | .init => Sys2Proof.Machine.execInit s
  | .solve => Sys2Proof.Machine.execSolve s
  | .solveIq => Sys2Proof.Machine.execSolveIq s
  | .derive kind rsel => Sys2Proof.Machine.execDerive kind rsel s
  | .setupPll pll => Sys2Proof.Machine.execSetupPll pll s
  | .setupOutput chan pll drive aim rsel phase => Sys2Proof.Machine.execSetupOutput chan pll drive aim rsel phase s
  | .setOe mask => Sys2Proof.Machine.execSetOe mask s
  | .setupClk0 drive => Sys2Proof.Machine.execSetupClk0 drive s
  | .setupClk2 drive => Sys2Proof.Machine.execSetupClk2 drive s

end Sys2Proof.Machine
end

