-- ==== Sys2Proof/Machine/Assembler.lean ====
section
/-! DEFINITION. Host programs: the assembler statements of 30_encoding.md R108 and the
pseudo-instructions of R109, as lists of host events. The block sees only these events. -/

namespace Sys2Proof.Machine

/-- A statement of the assembler (R108), and ENABLE (R109 (d)). -/
inductive Stmt where
  | init (corr : Word)
  | solve (freq : Word)
  | solveIq (freq : Word)
  | derivePll (ip num den : Word)
  | deriveDiv (ip num den : Word) (rsel : BitVec 3)
  | setupPll (pll : Pll) (mult num den : Word)
  | setupOutput (chan : Byte) (pll : Pll) (drive : BitVec 2) (div num den : Word) (aim : Bool)
      (rsel : BitVec 3) (phase : Byte)
  | setOe (mask : Byte)
  | setupClk0 (freq : Word) (drive : BitVec 2)
  | setupClk2 (freq : Word) (drive : BitVec 2)
  | enable (mask : Byte)
  deriving DecidableEq, Repr

/-- The command of a statement (R108). -/
def Stmt.instr : Stmt → Instr
  | .init _ => .init
  | .solve _ => .solve
  | .solveIq _ => .solveIq
  | .derivePll _ _ _ => .derive .pll 0
  | .deriveDiv _ _ _ rsel => .derive .div rsel
  | .setupPll pll _ _ _ => .setupPll pll
  | .setupOutput chan pll drive _ _ _ aim rsel phase => .setupOutput chan pll drive aim rsel phase
  | .setOe mask => .setOe mask
  | .setupClk0 _ drive => .setupClk0 drive
  | .setupClk2 _ drive => .setupClk2 drive
  | .enable mask => .setOe mask

/-- The operands of a statement, ARG0 first, only those its command reads (R108). -/
def Stmt.operands : Stmt → List Word
  | .init corr => [corr]
  | .solve freq => [freq]
  | .solveIq freq => [freq]
  | .derivePll ip num den => [ip, num, den]
  | .deriveDiv ip num den _ => [ip, num, den]
  | .setupPll _ mult num den => [mult, num, den]
  | .setupOutput _ _ _ div num den _ _ _ => [div, num, den]
  | .setOe _ => []
  | .setupClk0 freq _ => [freq]
  | .setupClk2 freq _ => [freq]
  | .enable _ => []

/-- A statement's host events (R108): the operands to ARG0, ARG1, ARG2 in that order, the command
word to CMD, then WAIT. -/
def assemble (t : Stmt) : List HostEvent :=
  (t.operands.zipIdx.map fun (v, k) => HostEvent.write (BitVec.ofNat 4 (4 + k)) v) ++
    [.write 0x0 (encode t.instr), .wait]

/-- SETUP_SOLVED's expansion, from the results as they stand before it (R109 (b)). -/
def setupSolved (chan : Byte) (pll : Pll) (drive : BitVec 2) (phase : Byte) (r : Results) :
    List HostEvent :=
  assemble (.setupPll pll r.r0 r.r1 r.r2) ++
    assemble (.setupOutput chan pll drive r.r3 r.r4 r.r5 (r.r6.getLsbD 3) (bits r.r6 0 3) phase)

/-- The expansion of a host program, given the results in RES (R109 (b), (c)). -/
def expand (p : Pseudo) (r : Results) : List HostEvent :=
  match p with
  | .setupSolved chan pll drive phase => setupSolved chan pll drive phase r
  | .quadPair chanA chanB pll drive freq =>
      assemble (.solveIq freq) ++ [.pseudo (.quadOutputs chanA chanB pll drive)]
  | .quadOutputs chanA chanB pll drive =>
      setupSolved chanA pll drive 0 r ++
        assemble (.setupOutput chanB pll drive r.r3 r.r4 r.r5 false 0 (bits r.r3 0 8))

end Sys2Proof.Machine
end

