-- ==== Sys2Proof/Machine/Bus.lean ====
section
/-! DEFINITION. The register write primitive BusWrite (42_protocol.md R230 to R232), one step with
BUS per probe and one per write (70_reset_and_hazards.md R370), and BUS's answers. -/

namespace Sys2Proof.Machine

/-- BUS's next probe answer: the next chosen one, or a free value (R231, log 3). -/
def BusPort.drawProbe (b : BusPort) : Probe × BusPort :=
  match b.probes with
  | p :: ps => (p, { b with probes := ps })
  | [] => (Config.freeProbe b.draws, { b with draws := b.draws + 1 })

/-- BUS's next write outcome: the next chosen one, or a free value (R231, log 3). -/
def BusPort.drawOutcome (b : BusPort) : WriteOutcome × BusPort :=
  match b.outcomes with
  | o :: os => (o, { b with outcomes := os })
  | [] => (Config.freeOutcome b.draws, { b with draws := b.draws + 1 })

/-- BUS answers: the event is appended to its trace. -/
def BusPort.record (b : BusPort) (e : BusEvent) : BusPort := { b with trace := b.trace ++ [e] }

/-- One device-ready probe (R230): ready lets the write go; not_ready counts, and at READY_LIMIT > 0
failed probes ends the command with BusNotReady. -/
def probeStep (s : State) : State :=
  let a := s.bus.drawProbe
  let t := { s with bus := a.2.record (.probe s.par.devBusAddr a.1) }
  match a.1 with
  | .ready => { t with inWrite := true }
  | .notReady =>
    let u := { t with pcnt := s.pcnt + 1 }
    if 0 < s.par.readyLimit ∧ s.par.readyLimit ≤ s.pcnt + 1 then complete .busNotReady u else u

/-- One write (R230, R232): accepted, it enters the write log and WIDX advances (R39, R45); a fault
is recorded in BUSFAULT and ends the command, the faulted write not in the log. -/
def writeStep (w : Write) (s : State) : State :=
  let a := s.bus.drawOutcome
  let t := { s with bus := a.2.record (.write s.par.devBusAddr w a.1) }
  match a.1 with
  | .ok => { t with log := s.log ++ [w], pcnt := 0, widx := s.widx + 1, inWrite := false }
  | .fault code => complete .busFault { t with busFault := zext32 code }

/-- A step in SEQ = ISSUE (R45): the write primitive for Q[WIDX], or, when every write of Q has been
accepted, completion. -/
def issueStep (s : State) : State :=
  match s.q[s.widx]? with
  | none => complete .noError s
  | some w => if s.inWrite then writeStep w s else probeStep s

/-- The writes BUS has accepted, in order, over the whole trace (R19, R342). -/
def acceptedWrites : List BusEvent → List Write
  | [] => []
  | .write _ w .ok :: es => w :: acceptedWrites es
  | .write _ _ (.fault _) :: es => acceptedWrites es
  | .probe _ _ :: es => acceptedWrites es

end Sys2Proof.Machine
end

