-- ==== Sys2Proof/Machine/HostPort.lean ====
section
/-! DEFINITION. The host side of the block: reads and writes of the sixteen registers (10_state.md
R30 to R43, 20_memory.md R70), reset (70_reset_and_hazards.md R340, R341), and whose turn it is
(log 2). -/

namespace Sys2Proof.Machine

/-- The value of a host register (R30, R31). -/
def hostRead (off : BitVec 4) (s : State) : Word :=
  match off.toNat with
  | 0x0 => s.cmd
  | 0x1 => s.status.toWord
  | 0x2 => s.cal
  | 0x3 => s.busFault
  | 0x4 => s.args.a0
  | 0x5 => s.args.a1
  | 0x6 => s.args.a2
  | 0x8 => s.res.r0
  | 0x9 => s.res.r1
  | 0xA => s.res.r2
  | 0xB => s.res.r3
  | 0xC => s.res.r4
  | 0xD => s.res.r5
  | 0xE => s.res.r6
  | 0xF => s.res.r7
  | _   => 0

/-- A host write of `v` to CMD: accepted, or lost but for OVR while BUSY = 1 (R41, R42). -/
def writeCmd (v : Word) (s : State) : State :=
  if s.status.busy then { s with status := s.status.overrun } else accept v s

/-- A host write of `v` to a register (R33, R41 to R43): CAL, BUSFAULT, offset 0x7 and RES0..RES7
ignore it. -/
def hostWrite (off : BitVec 4) (v : Word) (s : State) : State :=
  match off.toNat with
  | 0x0 => writeCmd v s
  | 0x1 => { s with status := s.status.write v }
  | 0x4 => { s with args := { s.args with a0 := v } }
  | 0x5 => { s with args := { s.args with a1 := v } }
  | 0x6 => { s with args := { s.args with a2 := v } }
  | _   => s

/-- The register a platform access names: word offset k at HOST_BASE + 4k (R70). -/
def hostOffset (p : Params) (addr size : Nat) : Except Fault (BitVec 4) :=
  if addr % 4 ≠ 0 ∨ size ≠ 4 then .error .hostAccessNotAdmitted
  else if 64 * p.hostPage ≤ addr ∧ addr < 64 * p.hostPage + 64 then
    .ok (BitVec.ofNat 4 ((addr - 64 * p.hostPage) / 4))
  else .error .hostAddressOutsideBlock

/-- Reset (R340): the block's fields as after power-on; the parameters, the host and BUS stay. -/
def resetBlock (s : State) : State :=
  { State.powerOn s.par with inputs := s.inputs, rdata := s.rdata, bus := s.bus }

/-- Reset while a write is with BUS (R341): BUS decides whether it reached the device, and the write
log holds it or not accordingly (log 5). -/
def resetInWrite (w : Write) (s : State) : State :=
  let a := s.bus.drawOutcome
  let t := resetBlock { s with bus := a.2.record (.write s.par.devBusAddr w a.1) }
  match a.1 with
  | .ok => { t with log := [w] }
  | .fault _ => t

/-- The reset input (R340, R341). -/
def resetStep (s : State) : State :=
  match s.inWrite, s.q[s.widx]? with
  | true, some w => resetInWrite w s
  | _, _ => resetBlock s

/-- Who takes this step: CORE and BUS, from a state, or the host, with its outcome. -/
inductive Turn where
  | core (s : State)
  | host (o : Host.Outcome State Fault Refusal)

/-- The host reads the register at `off` (R31). -/
def readStep (off : BitVec 4) (s : State) : State := { s with rdata := hostRead off s }

/-- A poll of WAIT (R109 (a)): a read of STATUS, a step of HOST like any access (R370). WAIT ends with
the poll that reads BUSY = 0; after another, CORE and BUS have a turn before the next poll (log 12). -/
def pollStep (rest : List HostEvent) (s : State) : State :=
  readStep 0x1 { s with inputs := if s.status.busy then .pass :: .wait :: rest else rest }

/-- The host's next event, or CORE's turn where the host passes or has none (log 2). -/
def schedule (s : State) : Turn :=
  match s.inputs with
  | [] => .core s
  | e :: rest =>
    let t := { s with inputs := rest }
    match e with
    | .pass => .core t
    | .read off => .host (.next (readStep off t))
    | .write off v => .host (.next (hostWrite off v t))
    | .busRead addr size =>
      match hostOffset s.par addr size with
      | .ok off => .host (.next (readStep off t))
      | .error f => .host (.fault f)
    | .busWrite addr size v =>
      match hostOffset s.par addr size with
      | .ok off => .host (.next (hostWrite off v t))
      | .error f => .host (.fault f)
    | .wait => .host (.next (pollStep rest s))
    | .pseudo p => .host (.next { s with inputs := expand p s.res ++ rest })
    | .reset => .host (.next (resetStep t))

/-- What CORE does in its turn: run a command's EXEC step, or move to a state. -/
inductive CoreAction where
  | run (i : Instr)
  | become (s : State)

/-- CORE's action by SEQ (R39, R44, R45): IDLE takes no step (R314); EXEC decodes L.cmd, an illegal
word ending the command (R103, R106); ISSUE issues. -/
def coreAction (s : State) : CoreAction :=
  match s.seq with
  | .idle => .become s
  | .exec =>
    match decode s.latch.cmd with
    | .ok i => .run i
    | .error _ => .become (complete .illegalCommand s)
  | .issue => .become (issueStep s)

end Sys2Proof.Machine
end

