-- ==== Sys2Proof/Machine/Step.lean ====
section
/-! DEFINITION. One step of the machine: one event of the host, or one step of CORE and BUS
(70_reset_and_hazards.md R370), and the placing of a command word for the next step. -/

namespace Sys2Proof.Machine

/-- A step of CORE and BUS (R44, R45, R370). -/
def coreStep (s : State) : Host.Outcome State Fault Refusal :=
  match coreAction s with
  | .run i => exec i s
  | .become t => .next t

/-- One step. An ill-formed DEVMAP is refused (R72, log 10). -/
def step (s : State) : Host.Outcome State Fault Refusal :=
  if s.par.dev.wellFormed then
    match schedule s with
    | .core t => coreStep t
    | .host o => o
  else .refused .illFormedDevMap

/-- `s` with a command word accepted, as by a host write to CMD with the ARG registers as they
stand (R41), and CORE's turn next: the block has no program, a command comes to run by this write
(log 14). -/
def State.withFetchWord (s : State) (nbits w : Nat) : State :=
  let t := accept (BitVec.ofNat 32 (w % 2 ^ nbits)) s
  match s.inputs with
  | [] => t
  | e :: rest => { t with inputs := .pass :: e :: rest }

end Sys2Proof.Machine
end

