-- ==== Sys2Proof/Machine/DeviceImage.lean ====
section
/-! DEFINITION. The device image (00_scope.md R19): the view of a write log that maps each device
register to the data of its last write. It is no state of the block (10_state.md R46) and no rule
reads it; statements may. It is held as cells in one canonical form: addresses strictly rising, an
unlisted address being undefined. -/

namespace Sys2Proof.Machine

/-- Cells by rising device address. -/
abbrev Memory := List Host.Cell

/-- The canonical form: addresses strictly rising. An unlisted address reads as no value, so no cell
equals what an unlisted address reads as. -/
def Memory.wf : Memory → Bool
  | [] => true
  | [_] => true
  | c :: d :: m => decide (c.1 < d.1) && Memory.wf (d :: m)

/-- The byte at an address; none where the log never wrote (R19: "undefined"). -/
def Memory.read (m : Memory) (a : Nat) : Option Byte :=
  match m with
  | [] => none
  | c :: rest => if c.1 = a then some c.2 else Memory.read rest a

/-- The byte at an address replaced, the canonical form kept. -/
def Memory.write (m : Memory) (a : Nat) (b : Byte) : Memory :=
  match m with
  | [] => [(a, b)]
  | c :: rest =>
    if a < c.1 then (a, b) :: c :: rest
    else if a = c.1 then (a, b) :: rest
    else c :: Memory.write rest a b

/-- The image of a write log (R19): later writes win. -/
def deviceImage (log : List Write) : Memory :=
  log.foldl (fun m w => Memory.write m w.reg.toNat w.data) []

end Sys2Proof.Machine
end

