-- ==== Sys2Proof/Machine/Events.lean ====
section
/-! DEFINITION. The events a step makes, in order, as 70_reset_and_hazards.md R370 counts them. The
EXEC step or the BUS step that ends a command is one atomic step with two events: it, and the
completion (10_state.md R44, 20_memory.md R83; log 6). -/

namespace Sys2Proof.Machine

/-- The events R370 names. -/
inductive Event where
  /-- One host access. -/
  | access
  /-- The EXEC step. -/
  | exec
  /-- One probe. -/
  | probe
  /-- One write at the BUS port, accepted or not. -/
  | write
  /-- The completion of a command. -/
  | completion
  deriving DecidableEq, Repr

/-- Whether the step of CORE and BUS from `s` completes the command. -/
def completesNext (s : State) : Bool :=
  match coreStep s with
  | .next t => s.seq != .idle && t.seq == .idle
  | .fault _ => false
  | .refused _ => false

/-- The events of a step of CORE and BUS before a completion, if it makes one: IDLE makes none, nor does
the step that finds every write of Q accepted, which is the completion alone (R45). -/
def workEvents (s : State) : List Event :=
  match s.seq with
  | .idle => []
  | .exec => [.exec]
  | .issue =>
    match s.q[s.widx]? with
    | none => []
    | some _ => if s.inWrite then [.write] else [.probe]

/-- The events of a step of CORE and BUS (R44, R45, R370). -/
def coreEvents (s : State) : List Event :=
  workEvents s ++ if completesNext s then [.completion] else []

/-- The events of a step: an access of the host, or what CORE and BUS do in their turn. The expansion of
a host program and a reset are no events of R370 (log 2, log 12). -/
def stepEvents (s : State) : List Event :=
  match s.inputs with
  | [] => coreEvents s
  | e :: rest =>
    match e with
    | .pass => coreEvents { s with inputs := rest }
    | .read _ | .write _ _ | .busRead _ _ | .busWrite _ _ _ | .wait => [.access]
    | .pseudo _ | .reset => []

/-- The events of the first `k` steps from `s`, in order; where a step stops, those before it. -/
def runEvents : Nat → State → List Event
  | 0, _ => []
  | k + 1, s =>
    match step s with
    | .next t => stepEvents s ++ runEvents k t
    | .fault _ => []
    | .refused _ => []

end Sys2Proof.Machine
end

