-- ==== Sys2Proof/Safety.lean ====
section
/-! DEFINITION. The terms claims use: the legal corrections, the output frequency a configuration
denotes, the fields a command reads, what a profile and a state must satisfy, and a BUS that answers
as chosen. None of it is computed by the block. -/

namespace Sys2Proof.Machine

/-- A correction INIT accepts: [−99,999,999, 99,999,999] (10_state.md R34, 42_protocol.md R241). -/
def CalLegal (w : Word) : Prop := -99999999 ≤ s32 w ∧ s32 w ≤ 99999999

/-- `fout` of 00_scope.md R22, as an exact rational:
REF × (mult + num/denom) / (div + num/denom) / 2^rsel. -/
def fout (pc : PllConfig) (dc : DivConfig) : ℚ :=
  (refHz : ℚ) * (pc.mult + (pc.num : ℚ) / pc.denom) / (dc.div + (dc.num : ℚ) / dc.denom)
    / 2 ^ dc.rsel.toNat

/-- The bits of CMD32 a command reads: OP and the reserved bits, and its fields (30_encoding.md
R100, R104). -/
def readMask : Instr → Word
  | .init | .solve | .solveIq => 0x0000E08F
  | .derive .. => 0x0000E7AF
  | .setupPll .. => 0x0000E09F
  | .setupOutput .. => 0xFFFFFFDF
  | .setOe .. => 0xFF00E08F
  | .setupClk0 .. | .setupClk2 .. => 0x0000F88F

/-- The device addresses of a DEVMAP, each parameter block's eight included (60_exceptions.md
R311). -/
def deviceAddresses (d : DevMap) : List Nat :=
  [d.oeReg.toNat] ++ (clkCtrlAll d).map BitVec.toNat ++
    ([d.pllBaseA, d.pllBaseB, d.msBase0, d.msBase1, d.msBase2].flatMap fun b =>
      (List.range 8).map fun k => b.toNat + k) ++
    [d.phaseReg0.toNat, d.phaseReg1.toNat, d.phaseReg2.toNat, d.pllResetReg.toNat,
     d.xtalLoadReg.toNat]

/-- CORE takes the next step of `s`, from `t`: the host passes, or is silent for good (log 2). -/
def CoreTurn (s t : State) : Prop :=
  (s.inputs = [] ∧ t = s) ∨
  (∃ rest, s.inputs = .pass :: rest ∧ t = { s with inputs := rest })

/-- The host's next event writes `v` to the register at word offset `off`, by offset or by platform
address (10_state.md R30, 20_memory.md R70). -/
def HostWrites (s : State) (off : BitVec 4) (v : Word) : Prop :=
  ∃ rest, s.inputs = .write off v :: rest ∨
    s.inputs = .busWrite (64 * s.par.hostPage + 4 * off.toNat) 4 v :: rest

/-- The host's next event is the reset input (70_reset_and_hazards.md R340). -/
def ResetsNext (s : State) : Prop := ∃ rest, s.inputs = .reset :: rest

/-- `s` at rest after a command ended with error `e`, its RES being `r` and its CAL `c`, and every
other register, the write log, the host and BUS as in `s` (60_exceptions.md R306). That L, CMD and the
ARG registers are as in `s` is the model's reading (log 15); `inWrite` is the model's own (log 4). -/
def endedWith (e : ErrCode) (r : Results) (c : Word) (s : State) : State :=
  { s with
    res := r, cal := c
    status := { s.status with busy := false, done := true, err := e }
    seq := .idle, q := [], widx := 0, pcnt := 0, pend := none, inWrite := false }

/-- `s` about to issue the write list `ws` and to commit `p` at completion; every register, the write
log, the host and BUS as in `s` (10_state.md R44). -/
def issuing (p : Option Pending) (ws : List Write) (s : State) : State :=
  { s with pend := p, q := ws, widx := 0, pcnt := 0, inWrite := false, seq := .issue }

/-- P1 of 41_encoder.md R190 as a number below 2^32. -/
def p1Of (ip num den : Nat) : Nat :=
  ((128 * ip + (128 * num % 2 ^ 32 / den : Nat) - 512 : Int) % 2 ^ 32).toNat

/-- P2 of 41_encoder.md R190. -/
def p2Of (num den : Nat) : Nat := 128 * num % 2 ^ 32 % den

/-- The eight bytes of 41_encoder.md R194 from the numbers P1, P2, P3, DB4 and RS. -/
def blockBytes (p1 p2 p3 db4 rs : Nat) : List Byte :=
  [p3 / 256, p3, rs * 16 + db4 * 4 + p1 / 65536 % 4, p1 / 256, p1,
   p3 / 65536 % 16 * 16 + p2 / 65536 % 16, p2 / 256, p2].map (BitVec.ofNat 8)

/-- The writes of a parameter block at `base`, ascending (41_encoder.md R197). -/
def blockWrites (base : Byte) (bytes : List Byte) : List Write :=
  bytes.zipIdx.map fun (b, k) => ⟨BitVec.ofNat 8 (base.toNat + k), b⟩

/-- What the rules promise of every state a run reaches. The clauses on ERR and BUSFAULT rest on the
model's choice between R41 and R350 (log 19), the one on `inWrite` on its own field (log 4). -/
structure StateInv (s : State) : Prop where
  /-- BUSY is 1 exactly from acceptance to completion (R32, R41, R306). -/
  busy_iff : s.status.busy = true ↔ s.seq ≠ .idle
  /-- "BUSY and DONE are never both 1" (R32). -/
  busy_excludes_done : ¬(s.status.busy = true ∧ s.status.done = true)
  /-- ERR is the error of the last completed command (R32), cleared by acceptance, which is the model's
  choice (R41 against R48 and R350, log 19). -/
  err_needs_done : s.status.err ≠ .noError → s.status.done = true
  /-- BUSFAULT stays 0 from acceptance but for a bus fault, and the completion that records the fault
  sets ERR in the same step (R35, R306, R83). The model's choice where R350 says otherwise (log 19). -/
  code_needs_fault : s.busFault ≠ 0 → s.status.err = .busFault
  /-- BUSFAULT is an 8-bit code zero-extended (R35). -/
  code_is_byte : s.busFault.toNat < 256
  /-- CMD reads back the latched word (R30, R40, R41, R42), at rest too, where L stays by the model's
  reading (log 15). -/
  latch_cmd : s.latch.cmd = s.cmd
  /-- Outside ISSUE there is no write list, no progress in one and nothing to commit (R39, R41, R306):
  an EXEC step that issues nothing completes its command in that step (R44, log 6). `inWrite` is the
  model's own (log 4). -/
  at_rest : s.seq ≠ .issue →
    s.q = [] ∧ s.widx = 0 ∧ s.pcnt = 0 ∧ s.pend = none ∧ s.inWrite = false
  /-- In ISSUE there is a write list, and 0 ≤ WIDX ≤ length(Q) (R39, R44). -/
  issuing : s.seq = .issue → s.q ≠ [] ∧ s.widx ≤ s.q.length
  /-- A write with BUS, the model's own point between the two BUS steps of R230, is the write at WIDX
  (log 4). -/
  in_write : s.inWrite = true → s.widx < s.q.length
  /-- The writes of Q before WIDX are the last of the write log, in Q's order (R45, R81). -/
  issued_in_order : s.q.take s.widx <:+ s.log
  /-- PCNT stays below a positive READY_LIMIT (R230). -/
  probes_bounded : 0 < s.par.readyLimit → s.pcnt < s.par.readyLimit
  /-- "CAL never holds another value" (R34). -/
  cal_legal : CalLegal s.cal
  /-- A correction that waits to be committed is legal (R240, R241). -/
  pend_cal_legal : ∀ p, s.pend = some p → ∀ c, p.cal = some c → CalLegal c
  /-- Only INIT holds a correction or an INIT_DONE update to commit (R34, R240). -/
  pend_is_init : ∀ p, s.pend = some p → (p.cal ≠ none ∨ p.init = true) →
    decode s.latch.cmd = .ok .init
  /-- The write log is what BUS has accepted since reset (R19), in the record the model keeps of BUS's
  answers (log 7; log 5 for a write in flight at reset). -/
  log_accepted : s.log <:+ acceptedWrites s.bus.trace

/-- A state whose BUS will answer as the two lists say before it answers freely (log 3). -/
def withBus (probes : List Probe) (outcomes : List WriteOutcome) (s : State) : State :=
  { s with bus := { s.bus with probes := probes, outcomes := outcomes } }

end Sys2Proof.Machine
end

