-- ==== Sys2Proof/Certificates/Slice0/Obligations.lean ====
section
/-! DEFINITION. Statements for the provers, one definition per obligation. Each docstring names the
rule it formalises. -/

open Sys2Proof Sys2Proof.Machine

/-! ### Encoding (30_encoding.md) -/

/-- Every command, with every operand at every value, decodes from its own word (R100, R103, R110). -/
def Obligations.DecodeEncodeRoundTrip : Prop :=
  ∀ i : Instr, decode (encode i) = .ok i

/-- The other direction: encoding a decoded word gives the word back but for the bits its command
does not read (R100, R103, R104). -/
def Obligations.EncodeDecodedWord : Prop :=
  ∀ (w : Word) (i : Instr), decode w = .ok i → encode i = w &&& readMask i

/-- Decoding, bit by bit (R103): a word with bit 7 or one of bits 15:13 set is illegal; otherwise its
low four bits select the command, whose fields are the bits R100 gives them and no others, and 0x0
and 0xA to 0xF are illegal. -/
def Obligations.DecodeFollowsTable : Prop :=
  ∀ (w : Word) (op : Nat), op = (w.extractLsb' 0 4).toNat →
    ((w.getLsbD 7 = true ∨ w.extractLsb' 13 3 ≠ 0) → ∃ r, decode w = .error r) ∧
    (w.getLsbD 7 = false → w.extractLsb' 13 3 = 0 →
      (op = 1 → decode w = .ok .init) ∧
      (op = 2 → decode w = .ok .solve) ∧
      (op = 3 → decode w = .ok .solveIq) ∧
      (op = 4 → decode w = .ok (.derive (if w.getLsbD 5 then .div else .pll)
        (w.extractLsb' 8 3))) ∧
      (op = 5 → decode w = .ok (.setupPll (if w.getLsbD 4 then .b else .a))) ∧
      (op = 6 → decode w = .ok (.setupOutput (w.extractLsb' 16 8)
        (if w.getLsbD 4 then .b else .a) (w.extractLsb' 11 2) (w.getLsbD 6) (w.extractLsb' 8 3)
        (w.extractLsb' 24 8))) ∧
      (op = 7 → decode w = .ok (.setOe (w.extractLsb' 24 8))) ∧
      (op = 8 → decode w = .ok (.setupClk0 (w.extractLsb' 11 2))) ∧
      (op = 9 → decode w = .ok (.setupClk2 (w.extractLsb' 11 2))) ∧
      ((op = 0 ∨ 10 ≤ op) → ∃ r, decode w = .error r))

/-- "Fields a command's rule does not read are ignored: they may hold any value and change nothing"
(R103): a word that agrees with another on the bits its command reads decodes to the same command. -/
def Obligations.UnreadFieldsIgnored : Prop :=
  ∀ (w w' : Word) (i : Instr), decode w = .ok i → w' &&& readMask i = w &&& readMask i →
    decode w' = .ok i

/-- Under the mask 0x0000E08F a word selects the command whose opcode is left, 0x1 to 0x9, and every
other word is illegal (R105). -/
def Obligations.MaskSelectsCommand : Prop :=
  ∀ w : Word,
    (∀ o : BitVec 4, 1 ≤ o.toNat → o.toNat ≤ 9 →
      ((∃ i, decode w = .ok i ∧ opcode i = o) ↔ w &&& 0x0000E08F#32 = o.setWidth 32)) ∧
    ((∃ r, decode w = .error r) ↔
      ¬∃ o : BitVec 4, 1 ≤ o.toNat ∧ o.toNat ≤ 9 ∧ w &&& 0x0000E08F#32 = o.setWidth 32)

/-- The command words of R110, field by field. -/
def Obligations.CommandWordLayout : Prop :=
  (∀ (chan : Byte) (pll : Pll) (drive : BitVec 2) (aim : Bool) (rsel : BitVec 3) (phase : Byte),
    (encode (.setupOutput chan pll drive aim rsel phase)).toNat =
      phase.toNat * 2 ^ 24 + chan.toNat * 2 ^ 16 + drive.toNat * 2 ^ 11 + rsel.toNat * 2 ^ 8 +
        aim.toNat * 2 ^ 6 + (pllBit pll).toNat * 2 ^ 4 + 0x6) ∧
  (∀ rsel : BitVec 3, (encode (.derive .div rsel)).toNat = 0x24 + rsel.toNat * 2 ^ 8) ∧
  (∀ mask : Byte, (encode (.setOe mask)).toNat = mask.toNat * 2 ^ 24 + 0x7) ∧
  (∀ drive : BitVec 2, (encode (.setupClk0 drive)).toNat = drive.toNat * 2 ^ 11 + 0x8 ∧
    (encode (.setupClk2 drive)).toNat = drive.toNat * 2 ^ 11 + 0x9)

/-- Words written out from the spec's encodings decode to their commands (R100, R103, R110). -/
def Obligations.SampleWordsDecode : Prop :=
  decode 0x00000001#32 = .ok .init ∧
  decode 0xFFFF1F72#32 = .ok .solve ∧
  decode 0x00000003#32 = .ok .solveIq ∧
  decode 0x00000624#32 = .ok (.derive .div 6) ∧
  decode 0x00000015#32 = .ok (.setupPll .b) ∧
  decode 0x40010B56#32 = .ok (.setupOutput 1 .b 1 true 3 0x40) ∧
  decode 0x05000007#32 = .ok (.setOe 5) ∧
  decode 0x00001808#32 = .ok (.setupClk0 3) ∧
  decode 0x00000809#32 = .ok (.setupClk2 1) ∧
  decode 0x00000000#32 = .error .reservedOpcode ∧
  decode 0x00004002#32 = .error .reservedBit

/-! ### Steps (10_state.md R39 to R45, 70_reset_and_hazards.md R370) -/

/-- When CORE has the step and SEQ = EXEC, a step runs the command the latched word decodes to, from
the state with only the host's pass consumed; and a word placed by `withFetchWord` is accepted as by
R41 and is the next thing that runs (R44). -/
def Obligations.StepRunsDecodedCommand : Prop :=
  (∀ (s t : State) (i : Instr), s.par.dev.wellFormed = true → CoreTurn s t → s.seq = .exec →
    decode s.latch.cmd = .ok i → step s = exec i t) ∧
  (∀ (s : State) (w : Word) (i : Instr), s.par.dev.wellFormed = true → decode w = .ok i →
    step (s.withFetchWord 32 w.toNat) = exec i (accept w s))

/-- An opcode 0x0 or 0xA to 0xF, or bit 7 or one of bits 15:13 set: the word ends the command with
IllegalCommand, issues no write and changes nothing else (R106), all in the EXEC step (R44). That L stays
is the model's reading (log 15). -/
def Obligations.IllegalWordEndsCommand : Prop :=
  ∀ s t : State, s.par.dev.wellFormed = true → CoreTurn s t → s.seq = .exec →
    (s.latch.cmd.getLsbD 7 = true ∨ s.latch.cmd.extractLsb' 13 3 ≠ 0 ∨
      (s.latch.cmd.extractLsb' 0 4).toNat = 0 ∨ 10 ≤ (s.latch.cmd.extractLsb' 0 4).toNat) →
    step s = .next (endedWith .illegalCommand t.res t.cal t)

/-- Every EXEC step answers a next state, and this is what it leaves as it was (R44, R306, R46): the
host registers but STATUS and RES, the latch, CAL, BUSFAULT, INIT_DONE and OVR, the write log (so
every byte of the device image), the parameters, the host and BUS; RES too but for the commands that
only give results. CAL and INIT_DONE are not changed even by INIT, whose update waits in PEND. The
command is about to issue its writes, or it is complete (log 6); that L stays is the model's reading
(log 15). -/
def Obligations.ExecFrame : Prop :=
  ∀ (i : Instr) (s : State), ∃ t, exec i s = .next t ∧
    t.cmd = s.cmd ∧ t.args = s.args ∧ t.latch = s.latch ∧ t.cal = s.cal ∧ t.busFault = s.busFault ∧
    t.status.initDone = s.status.initDone ∧ t.status.ovr = s.status.ovr ∧
    t.log = s.log ∧ (∀ a, Memory.read (deviceImage t.log) a = Memory.read (deviceImage s.log) a) ∧
    t.par = s.par ∧ t.inputs = s.inputs ∧ t.rdata = s.rdata ∧ t.bus = s.bus ∧
    ((∀ k r, i ≠ .solve ∧ i ≠ .solveIq ∧ i ≠ .derive k r) → t.res = s.res) ∧
    (t.seq = .issue → t.res = s.res ∧ t.status = s.status) ∧
    (t.seq = .issue ∨ (t.seq = .idle ∧ t.status.busy = false ∧ t.status.done = true))

/-- "The computation reads only L and CAL" (R44), besides the parameters: two states that agree on
them end the EXEC step with the same error or the same write list and pending results (R265). -/
def Obligations.ExecReadsOnlyLatchAndCal : Prop :=
  ∀ (i : Instr) (s s' t t' : State), s.latch = s'.latch → s.cal = s'.cal → s.par = s'.par →
    exec i s = .next t → exec i s' = .next t' →
    t.seq = t'.seq ∧ t.q = t'.q ∧ t.pend = t'.pend ∧
    (t.seq = .idle → t.status.err = t'.status.err ∧
      (t.status.err = .noError → t.res = t'.res))

/-- Reset: every field of the block at the value R340 lists, whatever the parameters. The reset of
the model's own fields is its choice (log 2, 3, 4, 7, 8) and is not part of this statement, nor is
the profile that `State.reset` takes (log 1). -/
def Obligations.ResetValues : Prop :=
  (∃ p, State.reset = State.powerOn p) ∧
  ∀ p : Params,
    (State.powerOn p).cmd = 0 ∧ (State.powerOn p).status.toWord = 0 ∧ (State.powerOn p).cal = 0 ∧
    (State.powerOn p).busFault = 0 ∧ (State.powerOn p).args = ⟨0, 0, 0⟩ ∧
    (State.powerOn p).res = ⟨0, 0, 0, 0, 0, 0, 0, 0⟩ ∧ (State.powerOn p).latch = ⟨0, ⟨0, 0, 0⟩⟩ ∧
    (State.powerOn p).seq = .idle ∧ (State.powerOn p).q = [] ∧ (State.powerOn p).widx = 0 ∧
    (State.powerOn p).pcnt = 0 ∧ (State.powerOn p).pend = none ∧ (State.powerOn p).log = [] ∧
    (State.powerOn p).par = p

/-- The default profile is well formed, no two of its device addresses coincide and no parameter
block overlaps another register (R311, R72, R251). The defaults are general knowledge by the spec's
mark (log 1). -/
def Obligations.DefaultProfileIsSound : Prop :=
  defaultDevMap.wellFormed = true ∧ (deviceAddresses defaultDevMap).Nodup ∧
    State.reset.par.readyLimit = 0 ∧ State.reset.par.devBusAddr = 0x60#7

/-- The invariant holds after reset, for every profile. Its clauses on ERR, BUSFAULT, `inWrite`, the rest of
the sequencer and the latch rest in part on the model's choices that `StateInv` names (log 4, log 6,
log 15, log 19). -/
def Obligations.InvHoldsAfterReset : Prop :=
  ∀ p : Params, StateInv (State.powerOn p)

/-- The invariant is kept by every step, from every state that has it, and no step changes the
parameters (R340). Clauses of `StateInv` rest on the model's choices: those on ERR and BUSFAULT, which
acceptance clears (R41 over R48 and R350, log 19), the one on `inWrite`, the model's own field (log 4),
that an ended command is complete (R44 with R370, log 6), that L stays at rest (log 15), and BUS's record
(log 5, log 7). -/
def Obligations.StepKeepsInv : Prop :=
  ∀ s t : State, StateInv s → step s = .next t → StateInv t ∧ t.par = s.par

/-! ### The host port (10_state.md, 20_memory.md) -/

/-- A host write of v to CMD while BUSY = 0 accepts a command: every assignment of R41, STATUS.OVR and
STATUS.INIT_DONE not changed. That ERR and BUSFAULT are cleared here, as R41 says and R48 and R350 do
not, is the model's choice (DESIGN CHOICE, log 19), and `inWrite` is the model's own field (log 4). -/
def Obligations.CmdWriteAccepts : Prop :=
  ∀ (s : State) (v : Word) (rest : List HostEvent), s.par.dev.wellFormed = true →
    s.inputs = .write 0x0 v :: rest → s.status.busy = false →
    step s = .next
      { s with
        inputs := rest, cmd := v, latch := ⟨v, s.args⟩
        status := { s.status with busy := true, done := false, err := .noError }
        busFault := 0, q := [], widx := 0, pcnt := 0, pend := none, inWrite := false, seq := .exec }

/-- A host write to CMD while BUSY = 1 changes nothing but OVR, which is set (R42). -/
def Obligations.CmdWriteWhileBusyIsLost : Prop :=
  ∀ (s : State) (v : Word) (rest : List HostEvent), s.par.dev.wellFormed = true →
    s.inputs = .write 0x0 v :: rest → s.status.busy = true →
    step s = .next { s with inputs := rest, status := { s.status with ovr := true } }

/-- A host write of v to STATUS clears OVR if v[3] = 1 and changes nothing else (R33). -/
def Obligations.StatusWriteClearsOvr : Prop :=
  ∀ (s : State) (v : Word) (rest : List HostEvent), s.par.dev.wellFormed = true →
    s.inputs = .write 0x1 v :: rest →
    step s = .next
      { s with
        inputs := rest
        status := { s.status with ovr := if v.getLsbD 3 then false else s.status.ovr } }

/-- A host write to ARG0..ARG2 stores the value; one to CAL, BUSFAULT, offset 0x7 or RES0..RES7 is
ignored (R43). -/
def Obligations.ArgAndReadOnlyWrites : Prop :=
  ∀ (s : State) (off : BitVec 4) (v : Word) (rest : List HostEvent),
    s.par.dev.wellFormed = true → s.inputs = .write off v :: rest → 2 ≤ off.toNat →
    step s = .next
      { s with
        inputs := rest
        args := { a0 := if off = 0x4 then v else s.args.a0
                  a1 := if off = 0x5 then v else s.args.a1
                  a2 := if off = 0x6 then v else s.args.a2 } }

/-- A host read returns the register's current value, 0 at offset 0x7, and changes nothing of the
block (R30, R31): only the host's own record of what it read, and its list of events, change. -/
def Obligations.HostReadsRegisters : Prop :=
  ∀ (s : State) (off : BitVec 4) (rest : List HostEvent), s.par.dev.wellFormed = true →
    s.inputs = .read off :: rest →
    ∃ v, [s.cmd, s.status.toWord, s.cal, s.busFault, s.args.a0, s.args.a1, s.args.a2, 0,
          s.res.r0, s.res.r1, s.res.r2, s.res.r3, s.res.r4, s.res.r5, s.res.r6,
          s.res.r7][off.toNat]? = some v ∧
      step s = .next { s with inputs := rest, rdata := v }

/-- The bits of STATUS (R32) with the error codes of R300. -/
def Obligations.StatusWordLayout : Prop :=
  ∀ st : Status,
    st.toWord.getLsbD 0 = st.busy ∧ st.toWord.getLsbD 1 = st.done ∧
    st.toWord.getLsbD 2 = st.initDone ∧ st.toWord.getLsbD 3 = st.ovr ∧
    st.toWord.toNat / 16 =
      (match st.err with
       | .noError => 0 | .invalidChannel => 1 | .unsupportedDividerMode => 2
       | .invalidCalibration => 3 | .zeroDenominator => 4 | .illegalCommand => 5
       | .busFault => 6 | .busNotReady => 7)

/-- Platform accesses (R70): offset k is at HOST_BASE + 4k and the access there is the word access;
one whose address is no multiple of 4 or whose size is not 4 has no step. -/
def Obligations.PlatformAccesses : Prop :=
  ∀ (s : State) (rest : List HostEvent), s.par.dev.wellFormed = true →
    (∀ (off : BitVec 4) (v : Word),
      step { s with inputs := .busRead (64 * s.par.hostPage + 4 * off.toNat) 4 :: rest } =
        step { s with inputs := .read off :: rest } ∧
      step { s with inputs := .busWrite (64 * s.par.hostPage + 4 * off.toNat) 4 v :: rest } =
        step { s with inputs := .write off v :: rest }) ∧
    (∀ (addr size : Nat) (v : Word), (addr % 4 ≠ 0 ∨ size ≠ 4) →
      step { s with inputs := .busRead addr size :: rest } = .fault .hostAccessNotAdmitted ∧
      step { s with inputs := .busWrite addr size v :: rest } = .fault .hostAccessNotAdmitted)

/-- A parameter block at `base` occupies base to base + 7, ascending and without wrap, for every base
a model admits (R72, R197); "a DEVMAP in which any PLL_BASE or MS_BASE exceeds 0xF8 ... is ill-formed
and a model refuses it" (R72): nothing runs. -/
def Obligations.BulkBlockFitsOrRefused : Prop :=
  (∀ (base : Byte) (b : Block), base.toNat ≤ 0xF8 →
    (writeBulk base b).map (fun w => (w.reg.toNat, w.data)) =
      [(base.toNat, b.b0), (base.toNat + 1, b.b1), (base.toNat + 2, b.b2), (base.toNat + 3, b.b3),
       (base.toNat + 4, b.b4), (base.toNat + 5, b.b5), (base.toNat + 6, b.b6),
       (base.toNat + 7, b.b7)]) ∧
  ∀ s : State,
    (0xF8 < s.par.dev.pllBaseA.toNat ∨ 0xF8 < s.par.dev.pllBaseB.toNat ∨
     0xF8 < s.par.dev.msBase0.toNat ∨ 0xF8 < s.par.dev.msBase1.toNat ∨
     0xF8 < s.par.dev.msBase2.toNat) →
    step s = .refused .illFormedDevMap

/-- Reset at any time (R340, R341): every block field takes its reset value, RES and CAL included,
the parameters stay, BUS's record of what the device accepted is only added to (R342), and the write
log is empty, or holds the one write that was with BUS when reset arrived. The last clause is the
model's reading of R340 with R341 (log 5). -/
def Obligations.ResetAbandonsCommand : Prop :=
  ∀ (s : State) (rest : List HostEvent), s.par.dev.wellFormed = true →
    s.inputs = .reset :: rest →
    ∃ t, step s = .next t ∧
      t = { State.powerOn s.par with
              inputs := rest, rdata := s.rdata, bus := t.bus, log := t.log } ∧
      s.bus.trace <+: t.bus.trace ∧
      (t.log = [] ∨ ∃ w, s.inWrite = true ∧ s.q[s.widx]? = some w ∧ t.log = [w]) ∧
      (s.inWrite = false → t.bus = s.bus ∧ t.log = [])

/-- An assembled statement, run from an idle block, leaves its command accepted with its word and
its operands latched, and the host waiting (R108, R41). -/
def Obligations.StatementIsAccepted : Prop :=
  ∀ (st : Stmt) (s : State) (rest : List HostEvent), s.par.dev.wellFormed = true →
    s.status.busy = false → s.inputs = assemble st ++ rest →
    ∃ t, core.run (st.operands.length + 1) s = .next t ∧ t.seq = .exec ∧
      t.latch.cmd = encode st.instr ∧ t.status.busy = true ∧ t.inputs = .wait :: rest ∧
      st.operands <+: [t.latch.args.a0, t.latch.args.a1, t.latch.args.a2] ∧
      [t.latch.args.a0, t.latch.args.a1, t.latch.args.a2].drop st.operands.length =
        [s.args.a0, s.args.a1, s.args.a2].drop st.operands.length ∧
      t.log = s.log ∧ t.bus = s.bus ∧ t.res = s.res ∧ t.cal = s.cal

/-- The pseudo-instructions of R109 in the host's list: SETUP_SOLVED and QUADPAIR expand to their
statements, with the results as they stand before the expansion that reads them, and change nothing
else; each poll of WAIT reads STATUS, WAIT ends with the one that reads BUSY = 0, and CORE has a turn
after another (log 12: the model holds them as host events). -/
def Obligations.HostProgramsExpand : Prop :=
  ∀ (s : State) (chanA chanB : Byte) (p : Pll) (d : BitVec 2) (ph : Byte) (f : Word)
    (rest : List HostEvent), s.par.dev.wellFormed = true →
    (s.inputs = .pseudo (.setupSolved chanA p d ph) :: rest →
      step s = .next { s with
        inputs :=
        assemble (.setupPll p s.res.r0 s.res.r1 s.res.r2) ++
        assemble (.setupOutput chanA p d s.res.r3 s.res.r4 s.res.r5 (s.res.r6.getLsbD 3)
          (s.res.r6.extractLsb' 0 3) ph) ++ rest }) ∧
    (s.inputs = .pseudo (.quadPair chanA chanB p d f) :: rest →
      step s = .next { s with
        inputs :=
        assemble (.solveIq f) ++ .pseudo (.quadOutputs chanA chanB p d) :: rest }) ∧
    (s.inputs = .pseudo (.quadOutputs chanA chanB p d) :: rest →
      step s = .next { s with
        inputs :=
        assemble (.setupPll p s.res.r0 s.res.r1 s.res.r2) ++
        assemble (.setupOutput chanA p d s.res.r3 s.res.r4 s.res.r5 (s.res.r6.getLsbD 3)
          (s.res.r6.extractLsb' 0 3) 0) ++
        assemble (.setupOutput chanB p d s.res.r3 s.res.r4 s.res.r5 false 0
          (s.res.r3.extractLsb' 0 8)) ++ rest }) ∧
    (s.inputs = .wait :: rest →
      step s = .next { s with
        inputs := if s.status.busy = true then .pass :: .wait :: rest else rest
        rdata := s.status.toWord })

/-! ### Calibration and solver (40_solver.md) -/

/-- With CAL = 0 both variants return F; with a legal CAL and F ≥ 1 both return a value in
[1, 2F − 1] (R144, derived by the spec from R141, R142 and R34). -/
def Obligations.CalibrationRange : Prop :=
  ∀ F c : Int,
    calSingle F 0 = F ∧ calQuad F 0 = F ∧
    (1 ≤ F → -99999999 ≤ c → c ≤ 99999999 →
      1 ≤ calSingle F c ∧ calSingle F c ≤ 2 * F - 1 ∧ 1 ≤ calQuad F c ∧ calQuad F c ≤ 2 * F - 1)

/-- SOLVE (R145, R155), both branches: clamp, boost, calibration, and the results in RES0..RES7. F is
the adjusted frequency, t the low branch's reduction factor, x the high branch's divider. The command
is complete in its EXEC step (R44; log 6 for R370); that L stays is the model's reading (log 15). -/
def Obligations.SolveResult : Prop :=
  ∀ s : State, CalLegal s.cal →
    ∀ c b F t x : Int, c = max 8000 (min s.latch.args.a0.toInt 160000000) →
      b = (if c < 1000000 then c * 64 else c) →
      F = b - (b * s.cal.toInt).tdiv 100000000 → t = F / 2 ^ 20 + 1 →
      x = (if 150000000 ≤ F then 4 else if 100000000 ≤ F then 6 else 8) →
      exec .solve s = .next (endedWith .noError
        (if F < 81000000 then
          { r0 := 36, r1 := 0, r2 := 1
            r3 := BitVec.ofInt 32 (900000000 / F), r4 := BitVec.ofInt 32 (900000000 % F / t)
            r5 := BitVec.ofInt 32 (F / t), r6 := if c < 1000000 then 0xE else 0x8
            r7 := BitVec.ofInt 32 F }
        else
          { r0 := BitVec.ofInt 32 (x * F / 25000000)
            r1 := BitVec.ofInt 32 (x * F % 25000000 / 24), r2 := 1041666
            r3 := BitVec.ofInt 32 x, r4 := 0, r5 := 1
            r6 := if c < 1000000 then 0xE else 0x8, r7 := BitVec.ofInt 32 F }) s.cal s)

/-- SOLVE_IQ (R170, R174): the clamp to [1.4 MHz, 100 MHz], the coarser calibration of R142, the
three bands, integer mode off and R-divider 1. The command is complete in its EXEC step (R44; log 6 for
R370); that L stays is the model's reading (log 15). -/
def Obligations.SolveIqResult : Prop :=
  ∀ s : State, CalLegal s.cal →
    ∀ c F x : Int, c = max 1400000 (min s.latch.args.a0.toInt 100000000) →
      F = c - (c / 1000000 * s.cal.toInt).tdiv 100 →
      x = (if F < 4900000 then 127 else if F < 8000000 then 625000000 / F else 900000000 / F) →
      exec .solveIq s = .next (endedWith .noError
        { r0 := BitVec.ofInt 32 (x * F / 25000000)
          r1 := BitVec.ofInt 32 (x * F % 25000000 / 24), r2 := 1041666
          r3 := BitVec.ofInt 32 x, r4 := 0, r5 := 1, r6 := 0, r7 := BitVec.ofInt 32 F } s.cal s)

/-- Ranges of SOLVE1's values for a legal CAL: the bounds of R146 (derived by the spec), and every
value of the solution below 2^31, so that RES holds it unchanged (R150). -/
def Obligations.SolveRanges : Prop :=
  ∀ f c : Int, -99999999 ≤ c → c ≤ 99999999 →
    let r := solve1 f c
    1 ≤ r.freq ∧ r.freq ≤ 319999998 ∧
    0 ≤ r.pc.mult ∧ r.pc.mult ≤ 51 ∧ 0 ≤ r.pc.num ∧ r.pc.num ≤ r.pc.denom ∧
    1 ≤ r.pc.denom ∧ r.pc.denom < 2 ^ 20 ∧
    1 ≤ r.dc.div ∧ r.dc.div ≤ 900000000 ∧ 0 ≤ r.dc.num ∧ r.dc.num ≤ r.dc.denom ∧
    1 ≤ r.dc.denom ∧ r.dc.denom < 2 ^ 20 ∧ r.dc.aim = true

/-- Ranges of SOLVEIQ's values (R172, derived by the spec): with a legal CAL, and with CAL = 0. -/
def Obligations.SolveIqRanges : Prop :=
  ∀ f c : Int, -99999999 ≤ c → c ≤ 99999999 →
    let r := solveQuad f c
    1 ≤ r.freq ∧ r.freq ≤ 199999999 ∧ 4 ≤ r.dc.div ∧ r.dc.div ≤ 127 ∧
    r.dc.div * r.freq ≤ 900000000 ∧ r.pc.denom = 1041666 ∧ 0 ≤ r.pc.num ∧
    r.pc.num ≤ r.pc.denom ∧ r.dc.num = 0 ∧ r.dc.denom = 1 ∧
    (c = 0 → 1400000 ≤ r.freq ∧ r.freq ≤ 100000000 ∧ 9 ≤ r.dc.div ∧ 7 ≤ r.pc.mult ∧
      r.pc.mult ≤ 36)

/-- On the whole low branch the exact output (R22) is within 7 Hz of the adjusted frequency, and
within 6 Hz up to 75 MHz, the R-divider aside (the corrected bound of 90_conflicts.md C3; R148 gives
the finer figure of 78,000,006). -/
def Obligations.LowBranchAccuracy : Prop :=
  ∀ F : Int, 512000 ≤ F → F < 81000000 →
    let r := solveLow F 0
    |fout r.pc r.dc - F| ≤ 7 ∧ (F ≤ 75000000 → |fout r.pc r.dc - F| ≤ 6)

/-- On the high branch, up to 160 MHz, the exact output is within 5 Hz of the adjusted frequency
(R148). -/
def Obligations.HighBranchAccuracy : Prop :=
  ∀ F : Int, 81000000 ≤ F → F ≤ 160000000 →
    let r := solveHigh F 0
    |fout r.pc r.dc - F| ≤ 5

/-- With CAL = 0 the quadrature solve is within 23/9 Hz, hence within 4 Hz, of the clamped target
(R173). -/
def Obligations.QuadratureAccuracy : Prop :=
  ∀ f : Int,
    let r := solveQuad f 0
    |fout r.pc r.dc - r.freq| ≤ 23 / 9

/-- R358: a quadrature solve whose adjusted frequency is above 100 MHz gives a divider that
SETUP_OUTPUT refuses without integer mode, on every channel, before any write (log 6 and log 15 for how
the model ends a command). -/
def Obligations.QuadAbove100MHzRefused : Prop :=
  ∀ (s : State) (f c : Int) (chan : Byte) (p : Pll) (d : BitVec 2) (rsel : BitVec 3) (ph : Byte),
    -99999999 ≤ c → c ≤ 99999999 → 100000000 < (solveQuad f c).freq → chan.toNat ≤ 2 →
    s.latch.args.a0 = BitVec.ofInt 32 (solveQuad f c).dc.div →
    s.latch.args.a1 = BitVec.ofInt 32 (solveQuad f c).dc.num →
    exec (.setupOutput chan p d false rsel ph) s =
      .next (endedWith .unsupportedDividerMode s.res s.cal s)

/-! ### Encoder (41_encoder.md) -/

/-- DERIVE (R190, R194, R200). A divider of 4 gives (0, 0, 1, 0b11) whatever num and den are, den = 0
included; otherwise a zero denominator ends the command with ZeroDenominator, RES unchanged; otherwise
P1, P2, P3 and the packed bytes are in RES, the lower device address in the more significant bits. The
command is complete in its EXEC step (R44; log 6 for R370); that L stays is the model's reading
(log 15). -/
def Obligations.DeriveResult : Prop :=
  ∀ (kind : Kind) (rsel : BitVec 3) (s : State),
    ∀ ip num den rs p1 p2 : Nat, ip = s.latch.args.a0.toNat → num = s.latch.args.a1.toNat →
      den = s.latch.args.a2.toNat → rs = (if kind = .div then rsel.toNat else 0) →
      p1 = p1Of ip num den → p2 = p2Of num den →
    (kind = .div → ip = 4 →
      ∃ r, exec (.derive kind rsel) s = .next (endedWith .noError r s.cal s) ∧
        r.r0 = 0 ∧ r.r1 = 0 ∧ r.r2 = 1 ∧ r.r3 = 3 ∧ r.r4.toNat = 0x00010C00 + rs * 2 ^ 12 ∧
        r.r5 = 0 ∧ r.r6 = 0 ∧ r.r7 = 0) ∧
    (¬(kind = .div ∧ ip = 4) → den = 0 →
      exec (.derive kind rsel) s = .next (endedWith .zeroDenominator s.res s.cal s)) ∧
    (¬(kind = .div ∧ ip = 4) → den ≠ 0 →
      ∃ r, exec (.derive kind rsel) s = .next (endedWith .noError r s.cal s) ∧
        r.r0.toNat = p1 ∧ r.r1.toNat = p2 ∧ r.r2.toNat = den ∧ r.r3 = 0 ∧ r.r6 = 0 ∧ r.r7 = 0 ∧
        r.r4.toNat = (den / 256 % 256) * 2 ^ 24 + (den % 256) * 2 ^ 16 +
          (rs * 16 + p1 / 65536 % 4) * 2 ^ 8 + p1 / 256 % 256 ∧
        r.r5.toNat = (p1 % 256) * 2 ^ 24 + (den / 65536 % 16 * 16 + p2 / 65536 % 16) * 2 ^ 16 +
          (p2 / 256 % 256) * 2 ^ 8 + p2 % 256)

/-- Where nothing wraps, ip + num/den = (P1 + 512 + P2/P3) / 128 exactly, with P2 < P3 (R191, derived
by the spec from R190). -/
def Obligations.EncodedValueExact : Prop :=
  ∀ (kind : Kind) (ip num den : Word) (k : Parms), den ≠ 0 → ¬(kind = .div ∧ ip = 4) →
    128 * num.toNat < 2 ^ 32 → 512 ≤ 128 * ip.toNat + 128 * num.toNat / den.toNat →
    128 * ip.toNat + 128 * num.toNat / den.toNat < 2 ^ 32 → deriveP kind ip num den = .ok k →
    (ip.toNat + (num.toNat : ℚ) / den.toNat : ℚ) =
      (k.p1.toNat + 512 + (k.p2.toNat : ℚ) / k.p3.toNat) / 128 ∧ k.p2.toNat < k.p3.toNat

/-- Unpacking a packed block gives P1[17:0], P2[19:0], P3[19:0], DB4 and RS, so the round trip is
exact exactly when P1 < 2^18, P2 < 2^20 and P3 < 2^20 (R196, derived by the spec from R194). -/
def Obligations.PackUnpackRoundTrip : Prop :=
  ∀ (k : Parms) (rs : BitVec 3),
    (unpackParms (pack k rs)).p1.toNat = k.p1.toNat % 2 ^ 18 ∧
    (unpackParms (pack k rs)).p2.toNat = k.p2.toNat % 2 ^ 20 ∧
    (unpackParms (pack k rs)).p3.toNat = k.p3.toNat % 2 ^ 20 ∧
    (unpackParms (pack k rs)).db4 = k.db4 ∧ unpackRsel (pack k rs) = rs ∧
    (unpackParms (pack k rs) = k ↔
      k.p1.toNat < 2 ^ 18 ∧ k.p2.toNat < 2 ^ 20 ∧ k.p3.toNat < 2 ^ 20)

/-- Inside the documented domain of a divider the packer loses no bit (R193): P1 ≤ 230,016 < 2^18,
P2 < 2^20 and P3 < 2^20. -/
def Obligations.DocumentedDomainFits : Prop :=
  ∀ (ip num den : Word) (rs : BitVec 3),
    ((8 ≤ ip.toNat ∧ ip.toNat ≤ 1800) ∨ ip.toNat = 4 ∨ ip.toNat = 6) →
    num.toNat ≤ den.toNat → den.toNat < 2 ^ 20 → den ≠ 0 →
    ∃ k, deriveP .div ip num den = .ok k ∧ k.p1.toNat ≤ 230016 ∧ unpackParms (pack k rs) = k

/-! ### Register protocol (42_protocol.md) -/

/-- INIT (R240): with a correction in [−99,999,999, 99,999,999] the ten writes in order, nothing
committed yet, and at completion CAL takes the correction whether or not a bus error ended the command
while INIT_DONE is set only without error; any other correction is refused with InvalidCalibration,
no write, CAL unchanged, in the EXEC step (R44; log 6 for R370), L staying by the model's reading
(log 15). -/
def Obligations.InitLaunchesTenWrites : Prop :=
  ∀ s : State,
    (¬CalLegal s.latch.args.a0 →
      exec .init s = .next (endedWith .invalidCalibration s.res s.cal s)) ∧
    (CalLegal s.latch.args.a0 → ∃ u, exec .init s = .next u ∧
      u = issuing (some ⟨none, some s.latch.args.a0, true⟩)
        [⟨s.par.dev.oeReg, 0xFF⟩, ⟨s.par.dev.clkCtrl0, 0x80⟩, ⟨s.par.dev.clkCtrl1, 0x80⟩,
         ⟨s.par.dev.clkCtrl2, 0x80⟩, ⟨s.par.dev.clkCtrl3, 0x80⟩, ⟨s.par.dev.clkCtrl4, 0x80⟩,
         ⟨s.par.dev.clkCtrl5, 0x80⟩, ⟨s.par.dev.clkCtrl6, 0x80⟩, ⟨s.par.dev.clkCtrl7, 0x80⟩,
         ⟨s.par.dev.xtalLoadReg, s.par.dev.xtalLoadVal⟩] s ∧
      ∀ e : ErrCode, e = .noError ∨ e = .busFault ∨ e = .busNotReady →
        (complete e u).cal = s.latch.args.a0 ∧
        ((complete e u).status.initDone = true ↔ s.status.initDone = true ∨ e = .noError))

/-- SETUP_PLL (R250): the parameter block at the PLL's base with DB4 and RS zero, then the write that
resets both PLLs, whichever PLL it is; a multiplier of 4 takes the general formula. A zero
denominator ends it with ZeroDenominator, no write, in the EXEC step (R44; log 6 for R370), L staying by
the model's reading (log 15). -/
def Obligations.SetupPllWrites : Prop :=
  ∀ (p : Pll) (s : State),
    (s.latch.args.a2 = 0 →
      exec (.setupPll p) s = .next (endedWith .zeroDenominator s.res s.cal s)) ∧
    (s.latch.args.a2 ≠ 0 →
      exec (.setupPll p) s = .next (issuing none
        (blockWrites (match p with | .a => s.par.dev.pllBaseA | .b => s.par.dev.pllBaseB)
          (blockBytes (p1Of s.latch.args.a0.toNat s.latch.args.a1.toNat s.latch.args.a2.toNat)
            (p2Of s.latch.args.a1.toNat s.latch.args.a2.toNat) s.latch.args.a2.toNat 0 0) ++
         [⟨s.par.dev.pllResetReg, s.par.dev.pllResetVal⟩]) s))

/-- SETUP_OUTPUT (R260, R263, R264, R266), its checks in the source's order and then its writes: a
channel above 2 is InvalidChannel whatever else is wrong; then, without integer mode, a divider below
8, or exactly 8, is UnsupportedDividerMode whatever the denominator; then a zero denominator is
ZeroDenominator, but for a divider of 4; none of them issues a write, and each ends the command in the
EXEC step (R44; log 6 for R370), L staying by the model's reading (log 15). Otherwise the control byte, the
parameter block at the channel's base and the phase byte's low 7 bits, in this order. -/
def Obligations.SetupOutputResult : Prop :=
  ∀ (chan : Byte) (p : Pll) (d : BitVec 2) (aim : Bool) (rsel : BitVec 3) (ph : Byte) (s : State),
    ∀ div num den int : Nat, div = s.latch.args.a0.toNat → num = s.latch.args.a1.toNat →
      den = s.latch.args.a2.toNat → int = (if aim = true ∧ (num = 0 ∨ div = 4) then 1 else 0) →
    (2 < chan.toNat → exec (.setupOutput chan p d aim rsel ph) s =
      .next (endedWith .invalidChannel s.res s.cal s)) ∧
    (chan.toNat ≤ 2 → aim = false → (div < 8 ∨ (div = 8 ∧ num = 0)) →
      exec (.setupOutput chan p d aim rsel ph) s =
        .next (endedWith .unsupportedDividerMode s.res s.cal s)) ∧
    (chan.toNat ≤ 2 → ¬(aim = false ∧ (div < 8 ∨ (div = 8 ∧ num = 0))) → den = 0 → div ≠ 4 →
      exec (.setupOutput chan p d aim rsel ph) s =
        .next (endedWith .zeroDenominator s.res s.cal s)) ∧
    (chan.toNat ≤ 2 → ¬(aim = false ∧ (div < 8 ∨ (div = 8 ∧ num = 0))) → (den ≠ 0 ∨ div = 4) →
      exec (.setupOutput chan p d aim rsel ph) s = .next (issuing none
        ([⟨[s.par.dev.clkCtrl0, s.par.dev.clkCtrl1, s.par.dev.clkCtrl2].getD chan.toNat 0,
           BitVec.ofNat 8 (int * 64 + (match p with | .a => 0 | .b => 32) + 12 + d.toNat)⟩] ++
         blockWrites ([s.par.dev.msBase0, s.par.dev.msBase1, s.par.dev.msBase2].getD chan.toNat 0)
           (if div = 4 then blockBytes 0 0 1 3 rsel.toNat
            else blockBytes (p1Of div num den) (p2Of num den) den 0 rsel.toNat) ++
         [⟨[s.par.dev.phaseReg0, s.par.dev.phaseReg1, s.par.dev.phaseReg2].getD chan.toNat 0,
           BitVec.ofNat 8 (ph.toNat % 128)⟩]) s))

/-- SET_OE (R270): one write, the bitwise complement of the mask of enabled channels. -/
def Obligations.SetOeWritesComplement : Prop :=
  ∀ (mask : Byte) (s : State),
    exec (.setOe mask) s =
      .next (issuing none [⟨s.par.dev.oeReg, BitVec.ofNat 8 (255 - mask.toNat)⟩] s)

/-- SETUP_CLK0 and SETUP_CLK2 with a legal CAL (R275, R276): no validation error; the results of
SOLVE pending, and the 19 writes are those of SETUP_PLL (PLL A, PLL B) for RES0..RES2 followed by
those of SETUP_OUTPUT (channel 0 from PLL A, channel 2 from PLL B, phase 0) for RES3..RES6. SOLVE itself
is complete in its EXEC step (R44; log 6 for R370), L staying by the model's reading (log 15). -/
def Obligations.ClockWrappersCompose : Prop :=
  ∀ (d : BitVec 2) (s : State), CalLegal s.cal →
    ∃ r : Results, exec .solve s = .next (endedWith .noError r s.cal s) ∧
      ∀ (i : Instr) (p : Pll) (chan : Byte),
        (i = .setupClk0 d ∧ p = .a ∧ chan = 0) ∨ (i = .setupClk2 d ∧ p = .b ∧ chan = 2) →
        ∃ ws vs : List Write,
          exec (.setupPll p) { s with latch := ⟨s.latch.cmd, ⟨r.r0, r.r1, r.r2⟩⟩ } =
            .next (issuing none ws { s with latch := ⟨s.latch.cmd, ⟨r.r0, r.r1, r.r2⟩⟩ }) ∧
          exec (.setupOutput chan p d (r.r6.getLsbD 3) (r.r6.extractLsb' 0 3) 0)
              { s with latch := ⟨s.latch.cmd, ⟨r.r3, r.r4, r.r5⟩⟩ } =
            .next (issuing none vs { s with latch := ⟨s.latch.cmd, ⟨r.r3, r.r4, r.r5⟩⟩ }) ∧
          exec i s = .next (issuing (some ⟨some r, none, false⟩) (ws ++ vs) s) ∧
          (ws ++ vs).length = 19

/-! ### Writes, errors and completion (42_protocol.md R230 to R232, 60_exceptions.md R306) -/

/-- complete(err) (R306): what it commits, what STATUS becomes, and the sequencer at rest. That L, CMD,
the ARG registers and the log, which R306 does not name, stay is the model's reading (log 15); `inWrite`
is the model's own field (log 4). -/
def Obligations.CompletionCommits : Prop :=
  ∀ (e : ErrCode) (s : State),
    (complete e s).res =
      (if e = .noError ∨ e = .busFault ∨ e = .busNotReady then
        (match s.pend with | some ⟨some r, _, _⟩ => r | _ => s.res) else s.res) ∧
    (complete e s).cal =
      (if e = .noError ∨ e = .busFault ∨ e = .busNotReady then
        (match s.pend with | some ⟨_, some c, _⟩ => c | _ => s.cal) else s.cal) ∧
    (complete e s).status.err = e ∧ (complete e s).status.done = true ∧
    (complete e s).status.busy = false ∧ (complete e s).status.ovr = s.status.ovr ∧
    ((complete e s).status.initDone = true ↔
      s.status.initDone = true ∨ (e = .noError ∧ ∃ r c, s.pend = some ⟨r, c, true⟩)) ∧
    complete e s = { endedWith e (complete e s).res (complete e s).cal s with
      status := (complete e s).status }

/-- "The completion of a command writes RES, CAL, BUSFAULT, ERR, INIT_DONE, DONE and BUSY in one atomic
step" (R83): a step that changes any of them completes a command, the new BUSFAULT and the ERR that says
so together, or is an acceptance or a reset. What acceptance clears is R41's list (log 19). -/
def Obligations.CompletionIsOneStep : Prop :=
  ∀ s t : State, step s = .next t →
    (t.res ≠ s.res ∨ t.cal ≠ s.cal ∨ t.busFault ≠ s.busFault ∨ t.status.err ≠ s.status.err ∨
      t.status.initDone ≠ s.status.initDone ∨ t.status.done ≠ s.status.done ∨
      t.status.busy ≠ s.status.busy) →
    (s.seq ≠ .idle ∧ t.seq = .idle ∧ t.status.busy = false ∧ t.status.done = true ∧
      (t.busFault ≠ s.busFault → t.status.err = .busFault)) ∨
    (∃ v, HostWrites s 0x0 v ∧ s.status.busy = false ∧ t.res = s.res ∧ t.cal = s.cal ∧
      t.busFault = 0 ∧ t.status.initDone = s.status.initDone) ∨
    ResetsNext s

/-- One step in SEQ = ISSUE (R45, R230, R232), from the state with only the host's pass consumed. For
the write w at WIDX: a failed probe counts, and ends the command with BusNotReady exactly when
READY_LIMIT > 0 probes have failed in a row; a ready probe lets the write go; an accepted write enters
the log and advances WIDX; a fault is recorded in BUSFAULT, zero-extended, and ends the command, the
faulted write not in the log. With every write of Q accepted the step is the completion without error.
The point between probe and write, `inWrite`, is the model's own (log 4); that an error and its
completion are one step follows R230 and R83 (log 6 for R370). -/
def Obligations.WritePrimitiveStep : Prop :=
  ∀ s t : State, s.par.dev.wellFormed = true → CoreTurn s t → s.seq = .issue →
    (s.q.length ≤ s.widx → step s = .next (complete .noError t)) ∧
    ∀ w, s.q[s.widx]? = some w →
    (s.inWrite = false →
      (s.bus.drawProbe.1 = .notReady →
        ∀ b, b = s.bus.drawProbe.2.record (.probe s.par.devBusAddr .notReady) →
          step s = .next (if 0 < s.par.readyLimit ∧ s.par.readyLimit ≤ s.pcnt + 1
            then complete .busNotReady { t with bus := b, pcnt := s.pcnt + 1 }
            else { t with bus := b, pcnt := s.pcnt + 1 })) ∧
      (s.bus.drawProbe.1 = .ready →
        ∀ b, b = s.bus.drawProbe.2.record (.probe s.par.devBusAddr .ready) →
          step s = .next { t with bus := b, inWrite := true })) ∧
    (s.inWrite = true →
      (s.bus.drawOutcome.1 = .ok →
        ∀ b, b = s.bus.drawOutcome.2.record (.write s.par.devBusAddr w .ok) →
          step s = .next { t with bus := b, log := s.log ++ [w], pcnt := 0, widx := s.widx + 1,
                                  inWrite := false }) ∧
      (∀ c, s.bus.drawOutcome.1 = .fault c →
        ∀ b, b = s.bus.drawOutcome.2.record (.write s.par.devBusAddr w (.fault c)) →
          step s = .next (complete .busFault { t with bus := b, busFault := c.setWidth 32 })))

/-- A command's whole run with a silent host (R44, R45, R81, R306). With n writes, on a BUS that is ready
and accepts everything, after 1 + 2n + 1 steps its writes have entered the write log in Q's order, PEND
is committed, and the command is done without error; a command that issues nothing is complete after
its EXEC step. That the steps fall so, each with the events R370 counts, is the model's reading of R370
with R44 (log 6). -/
def Obligations.CommandRunsToCompletion : Prop :=
  ∀ (s u : State) (i : Instr), s.par.dev.wellFormed = true → s.inputs = [] → s.seq = .exec →
    decode s.latch.cmd = .ok i → exec i s = .next u →
    (∀ (ps : List Probe) (os : List WriteOutcome), u.seq = .issue →
      s.bus.probes = List.replicate u.q.length .ready ++ ps →
      s.bus.outcomes = List.replicate u.q.length .ok ++ os →
      ∃ t b, core.run (1 + 2 * u.q.length + 1) s = .next t ∧
        t = complete .noError { u with log := s.log ++ u.q, bus := b } ∧
        b.probes = ps ∧ b.outcomes = os ∧
        acceptedWrites b.trace = acceptedWrites s.bus.trace ++ u.q) ∧
    (u.seq ≠ .issue → core.run 1 s = .next u ∧ u.seq = .idle ∧ u.status.busy = false ∧
      u.status.done = true)

/-- "A command with n writes and no failed probe takes 1 + 2n + 1 events after acceptance" (R370), n = 0
included: the EXEC event, a probe and a write for each entry of Q, and the completion, in this order. u
is the state after the EXEC step, so n is its list's length, 0 for a command that ends in EXEC. That the
completion event of such a command falls in its EXEC step is the model's reading of R370 with R44
(log 6). -/
def Obligations.CommandTakesCountedEvents : Prop :=
  ∀ (s u : State) (ps : List Probe) (os : List WriteOutcome),
    s.par.dev.wellFormed = true → s.inputs = [] → s.seq = .exec → step s = .next u →
    s.bus.probes = List.replicate u.q.length .ready ++ ps →
    s.bus.outcomes = List.replicate u.q.length .ok ++ os →
    ∃ k t, core.run k s = .next t ∧ t.seq = .idle ∧ t.status.done = true ∧
      runEvents k s =
        .exec :: (List.replicate u.q.length [Event.probe, Event.write]).flatten ++ [.completion] ∧
      (runEvents k s).length = 1 + 2 * u.q.length + 1

/-- A bus fault on the write after the first k (R230, R232, R355): the run ends with BusFault after
2k + 2 steps, exactly the first k writes are in the log, the remaining writes are not issued, BUSFAULT
holds the code, and PEND's results are committed. The count of steps, the completion falling in the step
of the fault, is the model's reading of R230 and R83 with R370 (log 6, and log 4 for the probe and the
write as two steps). -/
def Obligations.BusFaultStopsAfterAcceptedWrites : Prop :=
  ∀ (s : State) (k : Nat) (c : Byte) (ps : List Probe) (os : List WriteOutcome),
    s.par.dev.wellFormed = true → s.inputs = [] → s.seq = .issue → s.widx = 0 → s.pcnt = 0 →
    s.inWrite = false → k < s.q.length →
    s.bus.probes = List.replicate (k + 1) .ready ++ ps →
    s.bus.outcomes = List.replicate k .ok ++ .fault c :: os →
    ∃ t b, core.run (2 * k + 2) s = .next t ∧
      t = complete .busFault
        { s with log := s.log ++ s.q.take k, busFault := c.setWidth 32, bus := b } ∧
      b.probes = ps ∧ b.outcomes = os ∧
      acceptedWrites b.trace = acceptedWrites s.bus.trace ++ s.q.take k

/-- READY_LIMIT = N > 0 (R230): N failed probes in a row end the command with BusNotReady, in the step of
the last one (R230, R83; log 6 for R370), and fewer do not; no write is issued meanwhile. -/
def Obligations.BoundedReadyWait : Prop :=
  ∀ (s : State) (n : Nat) (ps : List Probe),
    s.par.dev.wellFormed = true → s.inputs = [] → s.seq = .issue → s.widx < s.q.length →
    s.pcnt = 0 → s.inWrite = false → 0 < s.par.readyLimit →
    s.bus.probes = List.replicate n .notReady ++ ps →
    (n < s.par.readyLimit →
      ∃ t, core.run n s = .next t ∧ t.seq = .issue ∧ t.pcnt = n ∧ t.log = s.log ∧ t.q = s.q ∧
        t.widx = s.widx ∧ t.status = s.status) ∧
    (n = s.par.readyLimit →
      ∃ t, core.run n s = .next t ∧ t.seq = .idle ∧ t.status.err = .busNotReady ∧
        t.status.done = true ∧ t.status.busy = false ∧ t.log = s.log)

/-- READY_LIMIT = 0 (R354): however many probes fail, the command neither completes nor ends, and no
write is issued; a non-terminating execution. -/
def Obligations.UnboundedReadyWait : Prop :=
  ∀ (s : State) (n : Nat) (ps : List Probe),
    s.par.dev.wellFormed = true → s.inputs = [] → s.seq = .issue → s.widx < s.q.length →
    s.inWrite = false → s.par.readyLimit = 0 →
    s.bus.probes = List.replicate n .notReady ++ ps →
    ∃ t, core.run n s = .next t ∧ t.seq = .issue ∧ t.pcnt = s.pcnt + n ∧ t.log = s.log ∧
      t.q = s.q ∧ t.widx = s.widx ∧ t.status = s.status ∧ t.res = s.res ∧ t.cal = s.cal

/-! ### Rules about the whole machine -/

/-- "CAL is written only by the completion of an INIT command" (R34): a step that changes CAL ends an
INIT and stores its operand, or is a reset. -/
def Obligations.CalWrittenOnlyByInit : Prop :=
  ∀ s t : State, StateInv s → step s = .next t → t.cal ≠ s.cal →
    (decode s.latch.cmd = .ok .init ∧ s.status.busy = true ∧ t.status.done = true ∧
      ∃ p, s.pend = some p ∧ p.cal = some t.cal) ∨
    ResetsNext s

/-- INIT_DONE is set only by the end of an INIT with ERR = 0, and never cleared except by reset
(R32, R48). -/
def Obligations.InitDoneOnlyByInit : Prop :=
  ∀ s t : State, StateInv s → step s = .next t → t.status.initDone ≠ s.status.initDone →
    (decode s.latch.cmd = .ok .init ∧ s.status.busy = true ∧ t.status.done = true ∧
      t.status.err = .noError ∧ t.status.initDone = true) ∨
    ResetsNext s

/-- OVR is set only by a CMD write while BUSY = 1 and cleared only by a STATUS write or a reset
(R48). -/
def Obligations.OvrOnlyByHost : Prop :=
  ∀ s t : State, step s = .next t → t.status.ovr ≠ s.status.ovr →
    (∃ v, HostWrites s 0x0 v ∧ s.status.busy = true ∧ t.status.ovr = true) ∨
    (∃ v, HostWrites s 0x1 v ∧ v.getLsbD 3 = true ∧ t.status.ovr = false) ∨
    ResetsNext s

/-- BUSY, DONE and ERR are written by acceptance, by completion and by reset only (R48); a completion
takes them all in one step (R83). That acceptance writes ERR, as R41 says and R48 does not, is the
model's choice (log 19). -/
def Obligations.FlagsOnlyByAcceptanceAndCompletion : Prop :=
  ∀ s t : State, step s = .next t →
    (t.status.busy ≠ s.status.busy ∨ t.status.done ≠ s.status.done ∨ t.status.err ≠ s.status.err) →
    (∃ v, HostWrites s 0x0 v ∧ s.status.busy = false ∧ t.seq = .exec ∧ t.latch.cmd = v ∧
      t.status.busy = true ∧ t.status.done = false ∧ t.status.err = .noError) ∨
    (t.seq = .idle ∧ t.status.busy = false ∧ t.status.done = true ∧
      (s.seq = .exec ∨ s.seq = .issue) ∧
      (t.status.err = .noError → s.seq = .issue → s.q.length ≤ s.widx)) ∨
    ResetsNext s

/-- RES changes only at the end of a command, all at once (R37, R83), or by reset: while a command
runs the host reads the results of the one before. -/
def Obligations.ResultsChangeOnlyAtCompletion : Prop :=
  ∀ s t : State, StateInv s → step s = .next t → t.res ≠ s.res →
    (s.status.busy = true ∧ t.status.busy = false ∧ t.status.done = true) ∨
    ResetsNext s

/-- The write log (R81, R230): a step leaves it, or appends the write at WIDX, or is a reset. -/
def Obligations.LogGrowsInQOrder : Prop :=
  ∀ s t : State, step s = .next t →
    t.log = s.log ∨
    (∃ w, s.seq = .issue ∧ s.q[s.widx]? = some w ∧ t.log = s.log ++ [w] ∧
      t.widx = s.widx + 1) ∨
    ResetsNext s

/-- The device image (R19) has the canonical form, maps each register to the data of its last write
in the log, and is undefined where the log never wrote. -/
def Obligations.DeviceImageIsLastWrite : Prop :=
  ∀ log : List Write, Memory.wf (deviceImage log) = true ∧
    ∀ a : Byte, Memory.read (deviceImage log) a.toNat =
      (log.reverse.find? fun w => w.reg == a).map Write.data
end

