-- ==== Sys2Proof/Laws/Arith.lean ====
section
/-! SUPPORT. The pseudocode's quotients on the operands the solver gives them (00_scope.md R16,
40_solver.md R144). -/

namespace Sys2Proof.Machine

/-- A quotient by a divisor that is not 0 truncates toward zero. -/
theorem quot_of_ne {b : Int} (hb : b ≠ 0) (a : Int) : quot a b = a.tdiv b := by simp [quot, hb]

/-- On a non-negative dividend and a positive divisor `quot` is the ordinary quotient (R16). -/
theorem quot_of_pos {a b : Int} (ha : 0 ≤ a) (hb : 0 < b) : quot a b = a / b := by
  rw [quot_of_ne (by omega), Int.tdiv_eq_ediv_of_nonneg ha]

/-- On a non-negative dividend and a positive divisor `rem` is the ordinary remainder (R16). -/
theorem rem_of_pos {a b : Int} (ha : 0 ≤ a) (hb : 0 < b) : rem a b = a % b := by
  rw [rem, quot_of_pos ha hb, Int.emod_def]

@[simp] theorem quot_zero_left {b : Int} (hb : b ≠ 0) : quot 0 b = 0 := by simp [quot, hb]

/-- The reduction factor of the high branch is 24 (R145). -/
@[simp] theorem refFactor_eq : refFactor = 24 := by decide

theorem clamp_bounds {v lo hi : Int} (h : lo ≤ hi) : lo ≤ clamp v lo hi ∧ clamp v lo hi ≤ hi := by
  unfold clamp; split <;> [skip; split] <;> omega

/-- The clamped and boosted target lies in [512,000, 160,000,000] (R146). -/
theorem boosted_bounds (f : Int) : 512000 ≤ (boosted f).1 ∧ (boosted f).1 ≤ 160000000 := by
  have h := clamp_bounds (v := f) (lo := 8000) (hi := 160000000) (by omega)
  unfold boosted
  simp only
  split <;> constructor <;> simp only <;> omega

end Sys2Proof.Machine
end

