-- ==== Sys2Proof/Laws/Decode.lean ====
section
/-! SUPPORT. The fields of a CMD32 word (30_encoding.md R100), read back one by one. -/

namespace Sys2Proof

theorem ofBool_getLsbD (b : Bool) (j : Nat) :
    (BitVec.ofBool b).getLsbD j = (decide (j = 0) && b) := by
  cases b <;> cases j <;> simp

/-- Bit k of a CMD32 word, by field (R100). -/
theorem cmd32_getLsbD (imm8 chan : Byte) (drive : BitVec 2) (rsel : BitVec 3) (aim kind pll : Bool)
    (op : BitVec 4) {k : Nat} (hk : k < 32) :
    (cmd32 imm8 chan drive rsel aim kind pll op).getLsbD k =
      if k < 4 then op.getLsbD k else if k = 4 then pll else if k = 5 then kind
      else if k = 6 then aim else if k = 7 then false else if k < 11 then rsel.getLsbD (k - 8)
      else if k < 13 then drive.getLsbD (k - 11) else if k < 16 then false
      else if k < 24 then chan.getLsbD (k - 16) else imm8.getLsbD (k - 24) := by
  unfold cmd32
  rw [BitVec.getLsbD_append, BitVec.getLsbD_append, BitVec.getLsbD_append, BitVec.getLsbD_append,
    BitVec.getLsbD_append, BitVec.getLsbD_append, BitVec.getLsbD_append, BitVec.getLsbD_append,
    BitVec.getLsbD_append]
  simp only [ofBool_getLsbD]
  by_cases h1 : k < 4
  · simp [h1]
  · interval_cases k <;> simp

section
variable (imm8 chan : Byte) (drive : BitVec 2) (rsel : BitVec 3) (aim kind pll : Bool)
  (op : BitVec 4)

/-- A slice of a CMD32 word is the field that lies there, bit by bit. -/
theorem cmd32_extract {lo len : Nat} (x : BitVec len)
    (hx : ∀ j, j < len →
      (cmd32 imm8 chan drive rsel aim kind pll op).getLsbD (lo + j) = x.getLsbD j) :
    (cmd32 imm8 chan drive rsel aim kind pll op).extractLsb' lo len = x := by
  apply BitVec.eq_of_getLsbD_eq
  intro j hj
  rw [BitVec.getLsbD_extractLsb', hx j hj]
  simp [hj]

@[simp] theorem opField_cmd32 : opField (cmd32 imm8 chan drive rsel aim kind pll op) = op :=
  cmd32_extract _ _ _ _ _ _ _ _ op fun j hj => by
    rw [cmd32_getLsbD _ _ _ _ _ _ _ _ (by omega)]; simp [hj]

@[simp] theorem rselField_cmd32 : rselField (cmd32 imm8 chan drive rsel aim kind pll op) = rsel :=
  cmd32_extract _ _ _ _ _ _ _ _ rsel fun j hj => by
    rw [cmd32_getLsbD _ _ _ _ _ _ _ _ (by omega)]; interval_cases j <;> simp

@[simp] theorem driveField_cmd32 :
    driveField (cmd32 imm8 chan drive rsel aim kind pll op) = drive :=
  cmd32_extract _ _ _ _ _ _ _ _ drive fun j hj => by
    rw [cmd32_getLsbD _ _ _ _ _ _ _ _ (by omega)]; interval_cases j <;> simp

@[simp] theorem chanField_cmd32 : chanField (cmd32 imm8 chan drive rsel aim kind pll op) = chan :=
  cmd32_extract _ _ _ _ _ _ _ _ chan fun j hj => by
    rw [cmd32_getLsbD _ _ _ _ _ _ _ _ (by omega)]; interval_cases j <;> simp

@[simp] theorem imm8Field_cmd32 : imm8Field (cmd32 imm8 chan drive rsel aim kind pll op) = imm8 :=
  cmd32_extract _ _ _ _ _ _ _ _ imm8 fun j hj => by
    rw [cmd32_getLsbD _ _ _ _ _ _ _ _ (by omega)]; interval_cases j <;> simp

@[simp] theorem aimField_cmd32 : aimField (cmd32 imm8 chan drive rsel aim kind pll op) = aim := by
  rw [aimField, cmd32_getLsbD _ _ _ _ _ _ _ _ (by omega)]; simp

@[simp] theorem kindField_cmd32 :
    kindField (cmd32 imm8 chan drive rsel aim kind pll op) = kindOfBit kind := by
  rw [kindField, cmd32_getLsbD _ _ _ _ _ _ _ _ (by omega)]; simp

@[simp] theorem pllField_cmd32 :
    pllField (cmd32 imm8 chan drive rsel aim kind pll op) = pllOfBit pll := by
  rw [pllField, cmd32_getLsbD _ _ _ _ _ _ _ _ (by omega)]; simp

/-- The reserved bits of a CMD32 word are 0 (R100). -/
theorem cmd32_reserved :
    (cmd32 imm8 chan drive rsel aim kind pll op).getLsbD 7 = false ∧
    (cmd32 imm8 chan drive rsel aim kind pll op).extractLsb' 13 3 = 0#3 :=
  ⟨by rw [cmd32_getLsbD _ _ _ _ _ _ _ _ (by omega)]; simp,
   cmd32_extract _ _ _ _ _ _ _ _ 0#3 fun j hj => by
    rw [cmd32_getLsbD _ _ _ _ _ _ _ _ (by omega)]; interval_cases j <;> simp⟩

end

@[simp] theorem pllOfBit_pllBit (p : Pll) : pllOfBit (pllBit p) = p := by cases p <;> rfl

@[simp] theorem kindOfBit_kindBit (k : Kind) : kindOfBit (kindBit k) = k := by cases k <;> rfl

end Sys2Proof
end

