-- ==== Sys2Proof/Laws/State.lean ====
section
/-! SUPPORT. One lemma per field for each of the model's updates of the state, true by definition, so
that no later proof unfolds `complete`, `accept`, `resetBlock` or `State.powerOn`. -/

namespace Sys2Proof.Machine

variable (e : ErrCode) (v : Word) (p : Params) (s : State)

@[simp] theorem complete_cmd : (complete e s).cmd = s.cmd := rfl
@[simp] theorem complete_status : (complete e s).status = s.status.completed e (setsInitDone e s) := rfl
@[simp] theorem complete_cal : (complete e s).cal = committedCal e s := rfl
@[simp] theorem complete_busFault : (complete e s).busFault = s.busFault := rfl
@[simp] theorem complete_args : (complete e s).args = s.args := rfl
@[simp] theorem complete_res : (complete e s).res = committedRes e s := rfl
@[simp] theorem complete_latch : (complete e s).latch = s.latch := rfl
@[simp] theorem complete_seq : (complete e s).seq = .idle := rfl
@[simp] theorem complete_q : (complete e s).q = [] := rfl
@[simp] theorem complete_widx : (complete e s).widx = 0 := rfl
@[simp] theorem complete_pcnt : (complete e s).pcnt = 0 := rfl
@[simp] theorem complete_pend : (complete e s).pend = none := rfl
@[simp] theorem complete_inWrite : (complete e s).inWrite = false := rfl
@[simp] theorem complete_log : (complete e s).log = s.log := rfl
@[simp] theorem complete_par : (complete e s).par = s.par := rfl
@[simp] theorem complete_inputs : (complete e s).inputs = s.inputs := rfl
@[simp] theorem complete_rdata : (complete e s).rdata = s.rdata := rfl
@[simp] theorem complete_bus : (complete e s).bus = s.bus := rfl

@[simp] theorem accept_cmd : (accept v s).cmd = v := rfl
@[simp] theorem accept_status : (accept v s).status = s.status.accepted := rfl
@[simp] theorem accept_cal : (accept v s).cal = s.cal := rfl
@[simp] theorem accept_busFault : (accept v s).busFault = 0 := rfl
@[simp] theorem accept_args : (accept v s).args = s.args := rfl
@[simp] theorem accept_res : (accept v s).res = s.res := rfl
@[simp] theorem accept_latch : (accept v s).latch = ⟨v, s.args⟩ := rfl
@[simp] theorem accept_seq : (accept v s).seq = .exec := rfl
@[simp] theorem accept_q : (accept v s).q = [] := rfl
@[simp] theorem accept_widx : (accept v s).widx = 0 := rfl
@[simp] theorem accept_pcnt : (accept v s).pcnt = 0 := rfl
@[simp] theorem accept_pend : (accept v s).pend = none := rfl
@[simp] theorem accept_inWrite : (accept v s).inWrite = false := rfl
@[simp] theorem accept_log : (accept v s).log = s.log := rfl
@[simp] theorem accept_par : (accept v s).par = s.par := rfl
@[simp] theorem accept_inputs : (accept v s).inputs = s.inputs := rfl
@[simp] theorem accept_rdata : (accept v s).rdata = s.rdata := rfl
@[simp] theorem accept_bus : (accept v s).bus = s.bus := rfl

@[simp] theorem powerOn_cmd : (State.powerOn p).cmd = 0 := rfl
@[simp] theorem powerOn_status : (State.powerOn p).status = ⟨false, false, false, false, .noError⟩ := rfl
@[simp] theorem powerOn_cal : (State.powerOn p).cal = 0 := rfl
@[simp] theorem powerOn_busFault : (State.powerOn p).busFault = 0 := rfl
@[simp] theorem powerOn_args : (State.powerOn p).args = ⟨0, 0, 0⟩ := rfl
@[simp] theorem powerOn_res : (State.powerOn p).res = Results.zero := rfl
@[simp] theorem powerOn_latch : (State.powerOn p).latch = ⟨0, ⟨0, 0, 0⟩⟩ := rfl
@[simp] theorem powerOn_seq : (State.powerOn p).seq = .idle := rfl
@[simp] theorem powerOn_q : (State.powerOn p).q = [] := rfl
@[simp] theorem powerOn_widx : (State.powerOn p).widx = 0 := rfl
@[simp] theorem powerOn_pcnt : (State.powerOn p).pcnt = 0 := rfl
@[simp] theorem powerOn_pend : (State.powerOn p).pend = none := rfl
@[simp] theorem powerOn_inWrite : (State.powerOn p).inWrite = false := rfl
@[simp] theorem powerOn_log : (State.powerOn p).log = [] := rfl
@[simp] theorem powerOn_par : (State.powerOn p).par = p := rfl
@[simp] theorem powerOn_inputs : (State.powerOn p).inputs = [] := rfl
@[simp] theorem powerOn_rdata : (State.powerOn p).rdata = 0 := rfl
@[simp] theorem powerOn_bus : (State.powerOn p).bus = BusPort.fresh := rfl

@[simp] theorem resetBlock_cmd : (resetBlock s).cmd = 0 := rfl
@[simp] theorem resetBlock_status : (resetBlock s).status = ⟨false, false, false, false, .noError⟩ := rfl
@[simp] theorem resetBlock_cal : (resetBlock s).cal = 0 := rfl
@[simp] theorem resetBlock_busFault : (resetBlock s).busFault = 0 := rfl
@[simp] theorem resetBlock_args : (resetBlock s).args = ⟨0, 0, 0⟩ := rfl
@[simp] theorem resetBlock_res : (resetBlock s).res = Results.zero := rfl
@[simp] theorem resetBlock_latch : (resetBlock s).latch = ⟨0, ⟨0, 0, 0⟩⟩ := rfl
@[simp] theorem resetBlock_seq : (resetBlock s).seq = .idle := rfl
@[simp] theorem resetBlock_q : (resetBlock s).q = [] := rfl
@[simp] theorem resetBlock_widx : (resetBlock s).widx = 0 := rfl
@[simp] theorem resetBlock_pcnt : (resetBlock s).pcnt = 0 := rfl
@[simp] theorem resetBlock_pend : (resetBlock s).pend = none := rfl
@[simp] theorem resetBlock_inWrite : (resetBlock s).inWrite = false := rfl
@[simp] theorem resetBlock_log : (resetBlock s).log = [] := rfl
@[simp] theorem resetBlock_par : (resetBlock s).par = s.par := rfl
@[simp] theorem resetBlock_inputs : (resetBlock s).inputs = s.inputs := rfl
@[simp] theorem resetBlock_rdata : (resetBlock s).rdata = s.rdata := rfl
@[simp] theorem resetBlock_bus : (resetBlock s).bus = s.bus := rfl

@[simp] theorem accepted_busy (st : Status) : st.accepted.busy = true := rfl
@[simp] theorem accepted_done (st : Status) : st.accepted.done = false := rfl
@[simp] theorem accepted_initDone (st : Status) : st.accepted.initDone = st.initDone := rfl
@[simp] theorem accepted_ovr (st : Status) : st.accepted.ovr = st.ovr := rfl
@[simp] theorem accepted_err (st : Status) : st.accepted.err = .noError := rfl
@[simp] theorem completed_busy (st : Status) (b : Bool) : (st.completed e b).busy = false := rfl
@[simp] theorem completed_done (st : Status) (b : Bool) : (st.completed e b).done = true := rfl
@[simp] theorem completed_initDone (st : Status) (b : Bool) : (st.completed e b).initDone = (st.initDone || b) := rfl
@[simp] theorem completed_ovr (st : Status) (b : Bool) : (st.completed e b).ovr = st.ovr := rfl
@[simp] theorem completed_err (st : Status) (b : Bool) : (st.completed e b).err = e := rfl
@[simp] theorem overrun_busy (st : Status) : st.overrun.busy = st.busy := rfl
@[simp] theorem overrun_done (st : Status) : st.overrun.done = st.done := rfl
@[simp] theorem overrun_initDone (st : Status) : st.overrun.initDone = st.initDone := rfl
@[simp] theorem overrun_ovr (st : Status) : st.overrun.ovr = true := rfl
@[simp] theorem overrun_err (st : Status) : st.overrun.err = st.err := rfl
@[simp] theorem status_write_busy (st : Status) : (st.write v).busy = st.busy := rfl
@[simp] theorem status_write_done (st : Status) : (st.write v).done = st.done := rfl
@[simp] theorem status_write_initDone (st : Status) : (st.write v).initDone = st.initDone := rfl
@[simp] theorem status_write_ovr (st : Status) : (st.write v).ovr = (st.ovr && !v.getLsbD 3) := rfl
@[simp] theorem status_write_err (st : Status) : (st.write v).err = st.err := rfl
@[simp] theorem record_probes (b : BusPort) (ev : BusEvent) : (b.record ev).probes = b.probes := rfl
@[simp] theorem record_outcomes (b : BusPort) (ev : BusEvent) : (b.record ev).outcomes = b.outcomes := rfl
@[simp] theorem record_draws (b : BusPort) (ev : BusEvent) : (b.record ev).draws = b.draws := rfl
@[simp] theorem record_trace (b : BusPort) (ev : BusEvent) : (b.record ev).trace = b.trace ++ [ev] := rfl

end Sys2Proof.Machine
end

