-- ==== Sys2Proof/Laws/Ops.lean ====
section
/-! SUPPORT. What the shared operations can do, said once: committing at completion, the EXEC step,
the host's writes, BUS's answers, one probe, one write, one issue step, reset. Later proofs cite these
instead of unfolding the operations. -/

namespace Sys2Proof.Machine

/-! ### Completion -/

@[simp] theorem commits_noError : ErrCode.noError.commits = true := rfl
@[simp] theorem commits_busFault : ErrCode.busFault.commits = true := rfl
@[simp] theorem commits_busNotReady : ErrCode.busNotReady.commits = true := rfl
@[simp] theorem commits_invalidChannel : ErrCode.invalidChannel.commits = false := rfl
@[simp] theorem commits_unsupportedDividerMode :
    ErrCode.unsupportedDividerMode.commits = false := rfl
@[simp] theorem commits_invalidCalibration : ErrCode.invalidCalibration.commits = false := rfl
@[simp] theorem commits_zeroDenominator : ErrCode.zeroDenominator.commits = false := rfl
@[simp] theorem commits_illegalCommand : ErrCode.illegalCommand.commits = false := rfl

@[simp] theorem committedRes_noCommit {e : ErrCode} (h : e.commits = false) (s : State) :
    committedRes e s = s.res := by simp [committedRes, h]

@[simp] theorem committedCal_noCommit {e : ErrCode} (h : e.commits = false) (s : State) :
    committedCal e s = s.cal := by simp [committedCal, h]

@[simp] theorem committedRes_noPend {s : State} (e : ErrCode) (h : s.pend = none) :
    committedRes e s = s.res := by simp [committedRes, h]

@[simp] theorem committedCal_noPend {s : State} (e : ErrCode) (h : s.pend = none) :
    committedCal e s = s.cal := by simp [committedCal, h]

@[simp] theorem setsInitDone_noPend {s : State} (e : ErrCode) (h : s.pend = none) :
    setsInitDone e s = false := by simp [setsInitDone, h]

/-- CAL after a completion is the old one or the one PEND held. -/
theorem committedCal_cases (e : ErrCode) (s : State) :
    committedCal e s = s.cal ∨
      ∃ p, s.pend = some p ∧ p.cal = some (committedCal e s) ∧ e.commits = true := by
  cases he : e.commits with
  | false => exact .inl (committedCal_noCommit he s)
  | true =>
    cases hp : s.pend with
    | none => exact .inl (committedCal_noPend e hp)
    | some p =>
      cases hc : p.cal with
      | none => left; simp [committedCal, hp, hc]
      | some c => right; exact ⟨p, rfl, by simp [committedCal, he, hp, hc]⟩

/-! ### The EXEC step of a plan -/

theorem launch_nil {p : Plan} (h : p.writes = []) (s : State) :
    launch p s = complete .noError { s with pend := p.pend } := by simp [launch, h]

theorem launch_writes {p : Plan} (h : p.writes ≠ []) (s : State) :
    launch p s = { s with pend := p.pend, q := p.writes, widx := 0, pcnt := 0, inWrite := false,
                          seq := .issue } := by
  unfold launch
  split
  · contradiction
  · simp_all

theorem execPlan_error (e : ErrCode) (s : State) : execPlan (.error e) s = .next (complete e s) := rfl

theorem execPlan_ok (p : Plan) (s : State) : execPlan (.ok p) s = .next (launch p s) := rfl

/-- An EXEC step always answers a next state: the command ends with a validation error, or its plan
is launched. -/
theorem execPlan_cases (r : Except ErrCode Plan) (s : State) :
    (∃ e, r = .error e ∧ execPlan r s = .next (complete e s)) ∨
    (∃ p, r = .ok p ∧ execPlan r s = .next (launch p s)) := by
  cases r with
  | error e => exact .inl ⟨e, rfl, rfl⟩
  | ok p => exact .inr ⟨p, rfl, rfl⟩

/-! ### Host writes -/

theorem writeCmd_idle {s : State} (h : s.status.busy = false) (v : Word) :
    writeCmd v s = accept v s := by simp [writeCmd, h]

theorem writeCmd_busy {s : State} (h : s.status.busy = true) (v : Word) :
    writeCmd v s = { s with status := s.status.overrun } := by simp [writeCmd, h]

/-- A host write is a CMD write, a STATUS write, an ARG write, or ignored. -/
theorem hostWrite_cases (off : BitVec 4) (v : Word) (s : State) :
    hostWrite off v s = writeCmd v s ∨
    hostWrite off v s = { s with status := s.status.write v } ∨
    (∃ a, hostWrite off v s = { s with args := a }) ∨
    hostWrite off v s = s := by
  unfold hostWrite
  split
  · exact .inl rfl
  · exact .inr (.inl rfl)
  · exact .inr (.inr (.inl ⟨_, rfl⟩))
  · exact .inr (.inr (.inl ⟨_, rfl⟩))
  · exact .inr (.inr (.inl ⟨_, rfl⟩))
  · exact .inr (.inr (.inr rfl))

/-! ### BUS -/

theorem drawProbe_cons {b : BusPort} {p : Probe} {ps : List Probe} (h : b.probes = p :: ps) :
    b.drawProbe = (p, { b with probes := ps }) := by simp [BusPort.drawProbe, h]

theorem drawOutcome_cons {b : BusPort} {o : WriteOutcome} {os : List WriteOutcome}
    (h : b.outcomes = o :: os) : b.drawOutcome = (o, { b with outcomes := os }) := by
  simp [BusPort.drawOutcome, h]

@[simp] theorem drawProbe_trace (b : BusPort) : b.drawProbe.2.trace = b.trace := by
  unfold BusPort.drawProbe; split <;> rfl

@[simp] theorem drawProbe_outcomes (b : BusPort) : b.drawProbe.2.outcomes = b.outcomes := by
  unfold BusPort.drawProbe; split <;> rfl

@[simp] theorem drawOutcome_trace (b : BusPort) : b.drawOutcome.2.trace = b.trace := by
  unfold BusPort.drawOutcome; split <;> rfl

@[simp] theorem drawOutcome_probes (b : BusPort) : b.drawOutcome.2.probes = b.probes := by
  unfold BusPort.drawOutcome; split <;> rfl

@[simp] theorem acceptedWrites_append (l m : List BusEvent) :
    acceptedWrites (l ++ m) = acceptedWrites l ++ acceptedWrites m := by
  induction l with
  | nil => rfl
  | cons ev l ih => rcases ev with _ | ⟨_, _, _ | _⟩ <;> simp [acceptedWrites, ih]

/-- BUS after a probe step. -/
def busAfterProbe (s : State) : BusPort :=
  s.bus.drawProbe.2.record (.probe s.par.devBusAddr s.bus.drawProbe.1)

/-- BUS after a write step. -/
def busAfterWrite (w : Write) (s : State) : BusPort :=
  s.bus.drawOutcome.2.record (.write s.par.devBusAddr w s.bus.drawOutcome.1)

/-- A probe step: ready, or a failed probe that counts, or the last one READY_LIMIT allows. -/
theorem probeStep_cases (s : State) :
    (s.bus.drawProbe.1 = .ready ∧ probeStep s = { s with bus := busAfterProbe s, inWrite := true }) ∨
    (s.bus.drawProbe.1 = .notReady ∧ (0 < s.par.readyLimit → s.pcnt + 1 < s.par.readyLimit) ∧
      probeStep s = { s with bus := busAfterProbe s, pcnt := s.pcnt + 1 }) ∨
    (s.bus.drawProbe.1 = .notReady ∧ 0 < s.par.readyLimit ∧ s.par.readyLimit ≤ s.pcnt + 1 ∧
      probeStep s = complete .busNotReady { s with bus := busAfterProbe s, pcnt := s.pcnt + 1 }) := by
  cases h : s.bus.drawProbe.1 with
  | ready => left; simp [probeStep, busAfterProbe, h]
  | notReady =>
    right
    by_cases hl : 0 < s.par.readyLimit ∧ s.par.readyLimit ≤ s.pcnt + 1
    · right; simp [probeStep, busAfterProbe, h, hl]
    · left
      refine ⟨rfl, fun h0 => by omega, ?_⟩
      simp [probeStep, busAfterProbe, h, hl]

/-- A write step: accepted and logged, or a fault that ends the command. -/
theorem writeStep_cases (w : Write) (s : State) :
    (s.bus.drawOutcome.1 = .ok ∧
      writeStep w s = { s with bus := busAfterWrite w s, log := s.log ++ [w], pcnt := 0,
                               widx := s.widx + 1, inWrite := false }) ∨
    (∃ c, s.bus.drawOutcome.1 = .fault c ∧
      writeStep w s = complete .busFault { s with bus := busAfterWrite w s, busFault := zext32 c }) := by
  cases h : s.bus.drawOutcome.1 with
  | ok => left; simp [writeStep, busAfterWrite, h]
  | fault c => right; exact ⟨c, rfl, by simp [writeStep, busAfterWrite, h]⟩

/-- An issue step: completion when every write is done, else the write primitive for Q[WIDX]. -/
theorem issueStep_cases (s : State) :
    (s.q.length ≤ s.widx ∧ issueStep s = complete .noError s) ∨
    (∃ w, s.q[s.widx]? = some w ∧ s.inWrite = true ∧ issueStep s = writeStep w s) ∨
    (∃ w, s.q[s.widx]? = some w ∧ s.inWrite = false ∧ issueStep s = probeStep s) := by
  unfold issueStep
  cases h : s.q[s.widx]? with
  | none => exact .inl ⟨by simpa using h, rfl⟩
  | some w =>
    right
    cases hw : s.inWrite with
    | true => exact .inl ⟨w, rfl, rfl, by simp⟩
    | false => exact .inr ⟨w, rfl, rfl, by simp⟩

/-! ### Reset -/

/-- A reset: the block's fields as at power-on, and the write log empty, or holding the one write
that was with BUS and that BUS accepted. -/
theorem resetStep_cases (s : State) :
    resetStep s = resetBlock s ∨
    (∃ w, s.q[s.widx]? = some w ∧ s.bus.drawOutcome.1 = .ok ∧
      resetStep s = { resetBlock { s with bus := busAfterWrite w s } with log := [w] }) ∨
    (∃ w c, s.q[s.widx]? = some w ∧ s.bus.drawOutcome.1 = .fault c ∧
      resetStep s = resetBlock { s with bus := busAfterWrite w s }) := by
  unfold resetStep
  split
  · rename_i w _ hq
    right
    cases h : s.bus.drawOutcome.1 with
    | ok => exact .inl ⟨w, hq, rfl, by simp [resetInWrite, busAfterWrite, h]⟩
    | fault c => exact .inr ⟨w, c, hq, rfl, by simp [resetInWrite, busAfterWrite, h]⟩
  · exact .inl rfl

end Sys2Proof.Machine
end

