-- ==== Sys2Proof/Laws/Step.lean ====
section
/-! SUPPORT. What a step can do, said once (`step_cases`, `coreStep_cases`, `exec_cases`): later proofs
take their cases from these instead of unfolding `step`. -/

namespace Sys2Proof.Machine

/-- The computation of a command's EXEC step as a plan (R44): what `exec` runs. -/
def planOf (i : Instr) (s : State) : Except ErrCode Plan :=
  match i with
  | .init => planInit s.latch.args.a0 s.par.dev
  | .solve => .ok (Plan.results (solveResults (solve1 (signedArg0 s) (calibration s))))
  | .solveIq => .ok (Plan.results (solveResults (solveQuad (signedArg0 s) (calibration s))))
  | .derive kind rsel => planDerive kind rsel s.latch.args
  | .setupPll p =>
    (pllWrites s.par.dev p s.latch.args.a0 s.latch.args.a1 s.latch.args.a2).map fun ws => ⟨none, ws⟩
  | .setupOutput chan p drive aim rsel phase =>
    (outputWrites s.par.dev chan p drive s.latch.args.a0 s.latch.args.a1 s.latch.args.a2 aim rsel
      phase).map fun ws => ⟨none, ws⟩
  | .setOe mask => .ok ⟨none, [⟨s.par.dev.oeReg, ~~~mask⟩]⟩
  | .setupClk0 drive => planClk s.par.dev 0 .a drive (solve1 (signedArg0 s) (calibration s))
  | .setupClk2 drive => planClk s.par.dev 2 .b drive (solve1 (signedArg0 s) (calibration s))

theorem exec_eq_execPlan (i : Instr) (s : State) : exec i s = execPlan (planOf i s) s := by
  cases i <;> rfl

/-- An EXEC step ends the command with a validation error, or launches its plan (R44). -/
theorem exec_cases (i : Instr) (s : State) :
    (∃ e, planOf i s = .error e ∧ exec i s = .next (complete e s)) ∨
    (∃ p, planOf i s = .ok p ∧ exec i s = .next (launch p s)) := by
  rw [exec_eq_execPlan]
  exact execPlan_cases _ _

/-- A failing parameter derivation is a zero denominator (R190). -/
theorem deriveP_error {kind : Kind} {ip num den : Word} {e : ErrCode}
    (h : deriveP kind ip num den = .error e) : e = .zeroDenominator := by
  unfold deriveP at h
  split at h
  · cases h
  · split at h <;> cases h
    rfl

theorem pllWrites_error {d : DevMap} {p : Pll} {mult num den : Word} {e : ErrCode}
    (h : pllWrites d p mult num den = .error e) : e = .zeroDenominator := by
  unfold pllWrites at h
  split at h
  · rename_i e' he; cases h; exact deriveP_error he
  · cases h

theorem outputWrites_error {d : DevMap} {chan : Byte} {p : Pll} {drive : BitVec 2}
    {div num den : Word} {aim : Bool} {rsel : BitVec 3} {phase : Byte} {e : ErrCode}
    (h : outputWrites d chan p drive div num den aim rsel phase = .error e) :
    e = .invalidChannel ∨ e = .unsupportedDividerMode ∨ e = .zeroDenominator := by
  unfold outputWrites at h
  split at h
  · cases h; exact .inl rfl
  · split at h
    · cases h; exact .inr (.inl rfl)
    · split at h
      · rename_i e' he; cases h; exact .inr (.inr (deriveP_error he))
      · cases h

theorem except_map_error {α β : Type} {f : α → β} {r : Except ErrCode α} {e : ErrCode}
    (h : r.map f = .error e) : r = .error e := by
  cases r <;> simp_all [Except.map]

theorem except_map_ok {α β : Type} {f : α → β} {r : Except ErrCode α} {b : β}
    (h : r.map f = .ok b) : ∃ a, r = .ok a ∧ f a = b := by
  cases r <;> simp_all [Except.map]

/-- The errors of an EXEC step are validation errors: they commit nothing (R303, R306). -/
theorem planOf_error {i : Instr} {s : State} {e : ErrCode} (h : planOf i s = .error e) :
    e.commits = false := by
  have clk : ∀ {d chan p drive r}, planClk d chan p drive r = .error e → e.commits = false := by
    intro d chan p drive r hc
    unfold planClk at hc
    split at hc
    · rename_i e' he; cases hc; rw [pllWrites_error he]; rfl
    · split at hc
      · rename_i e' he; cases hc
        rcases outputWrites_error he with h | h | h <;> rw [h] <;> rfl
      · cases hc
  cases i with
  | init =>
    simp only [planOf, planInit] at h
    split at h <;> cases h
    rfl
  | solve => cases h
  | solveIq => cases h
  | derive kind rsel =>
    simp only [planOf, planDerive] at h
    split at h
    · rename_i e' he; cases h; rw [deriveP_error he]; rfl
    · cases h
  | setupPll p => rw [pllWrites_error (except_map_error h)]; rfl
  | setupOutput chan p drive aim rsel phase =>
    rcases outputWrites_error (except_map_error h) with h | h | h <;> rw [h] <;> rfl
  | setOe mask => cases h
  | setupClk0 drive => exact clk h
  | setupClk2 drive => exact clk h

/-- Only INIT's plan holds a correction or an INIT_DONE update, and its correction is legal (R240,
R241). -/
theorem planOf_pend {i : Instr} {s : State} {p : Plan} (h : planOf i s = .ok p) {k : Pending}
    (hk : p.pend = some k) :
    ((k.cal ≠ none ∨ k.init = true) → i = .init) ∧ ∀ c, k.cal = some c → CalLegal c := by
  have clk : ∀ {d chan q drive r}, planClk d chan q drive r = .ok p → k.cal = none ∧ k.init = false := by
    intro d chan q drive r hc
    unfold planClk at hc
    split at hc
    · cases hc
    · split at hc
      · cases hc
      · cases hc; simp only [Option.some.injEq] at hk; subst hk; exact ⟨rfl, rfl⟩
  cases i with
  | init =>
    simp only [planOf, planInit] at h
    split at h
    · cases h
    · rename_i hr
      cases h
      simp only [Option.some.injEq] at hk
      subst hk
      simp only [not_or, Int.not_lt, calLimit, gt_iff_lt] at hr
      exact ⟨fun _ => rfl, fun c hc => by cases hc; exact ⟨by omega, by omega⟩⟩
  | solve => cases h; simp only [Plan.results, Option.some.injEq] at hk; subst hk; simp
  | solveIq => cases h; simp only [Plan.results, Option.some.injEq] at hk; subst hk; simp
  | derive kind rsel =>
    simp only [planOf, planDerive] at h
    split at h
    · cases h
    · cases h; simp only [Plan.results, Option.some.injEq] at hk; subst hk; simp
  | setupPll q => obtain ⟨ws, -, rfl⟩ := except_map_ok h; cases hk
  | setupOutput chan q drive aim rsel phase => obtain ⟨ws, -, rfl⟩ := except_map_ok h; cases hk
  | setOe mask => cases h; cases hk
  | setupClk0 drive => have := clk h; simp_all
  | setupClk2 drive => have := clk h; simp_all

/-- SETUP_PLL's list has nine writes (R250). -/
theorem pllWrites_length {d : DevMap} {p : Pll} {mult num den : Word} {ws : List Write}
    (h : pllWrites d p mult num den = .ok ws) : ws.length = 9 := by
  unfold pllWrites at h
  split at h <;> cases h
  rfl

/-- SETUP_OUTPUT's list has ten writes (R260). -/
theorem outputWrites_length {d : DevMap} {chan : Byte} {p : Pll} {drive : BitVec 2}
    {div num den : Word} {aim : Bool} {rsel : BitVec 3} {phase : Byte} {ws : List Write}
    (h : outputWrites d chan p drive div num den aim rsel phase = .ok ws) : ws.length = 10 := by
  unfold outputWrites at h
  split at h
  · cases h
  · split at h
    · cases h
    · split at h <;> cases h
      rfl

/-- The wrappers' list is SETUP_PLL's followed by SETUP_OUTPUT's, with the solve's results pending
(R275, R276). -/
theorem planClk_ok {d : DevMap} {chan : Byte} {p : Pll} {drive : BitVec 2} {r : Solution} {k : Plan}
    (h : planClk d chan p drive r = .ok k) :
    ∃ ws vs, pllWrites d p (u32 r.pc.mult) (u32 r.pc.num) (u32 r.pc.denom) = .ok ws ∧
      outputWrites d chan p drive (u32 r.dc.div) (u32 r.dc.num) (u32 r.dc.denom) r.dc.aim r.dc.rsel 0 =
        .ok vs ∧
      k = ⟨some ⟨some (solveResults r), none, false⟩, ws ++ vs⟩ := by
  unfold planClk at h
  split at h
  · cases h
  · split at h
    · cases h
    · cases h; exact ⟨_, _, ‹_›, ‹_›, rfl⟩

/-- A plan with no write only gives results, and is one of SOLVE, SOLVE_IQ or DERIVE (R155, R174,
R200). -/
theorem planOf_noWrites {i : Instr} {s : State} {p : Plan} (h : planOf i s = .ok p)
    (hw : p.writes = []) :
    (∃ r, p = Plan.results r) ∧ (i = .solve ∨ i = .solveIq ∨ ∃ k r, i = .derive k r) := by
  have clk : ∀ {d chan q drive r}, planClk d chan q drive r ≠ .ok p := by
    intro d chan q drive r hc
    obtain ⟨ws, vs, h1, -, rfl⟩ := planClk_ok hc
    have := pllWrites_length h1
    simp_all
  cases i with
  | init =>
    simp only [planOf, planInit] at h
    split at h <;> cases h
    simp [initWrites] at hw
  | solve => cases h; exact ⟨⟨_, rfl⟩, .inl rfl⟩
  | solveIq => cases h; exact ⟨⟨_, rfl⟩, .inr (.inl rfl)⟩
  | derive kind rsel =>
    simp only [planOf, planDerive] at h
    split at h <;> cases h
    exact ⟨⟨_, rfl⟩, .inr (.inr ⟨_, _, rfl⟩)⟩
  | setupPll q =>
    obtain ⟨ws, h1, rfl⟩ := except_map_ok h
    have := pllWrites_length h1
    simp_all
  | setupOutput chan q drive aim rsel phase =>
    obtain ⟨ws, h1, rfl⟩ := except_map_ok h
    have := outputWrites_length h1
    simp_all
  | setOe mask => cases h; cases hw
  | setupClk0 drive => exact absurd h clk
  | setupClk2 drive => exact absurd h clk

/-- The end of an EXEC step that only gives results (R44, R306). -/
theorem launch_results (r : Results) (s : State) :
    launch (Plan.results r) s = endedWith .noError r s.cal s := by
  simp [launch, Plan.results, complete, endedWith, committedRes, committedCal, setsInitDone,
    ErrCode.commits, Status.completed]

/-- The end of an EXEC step by a validation error (R306). -/
theorem complete_error {e : ErrCode} (h : e.commits = false) (s : State) :
    complete e s = endedWith e s.res s.cal s := by
  have : e ≠ .noError := by rintro rfl; cases h
  simp [complete, endedWith, h, setsInitDone, Status.completed, this]

/-- The end of an EXEC step that has writes to issue (R44). -/
theorem launch_issuing {p : Plan} (h : p.writes ≠ []) (s : State) :
    launch p s = issuing p.pend p.writes s := launch_writes h s

/-- The EXEC step of every command (R44): it ends with an error and commits nothing, or it ends at
once with its results, or it is about to issue its writes. -/
theorem exec_outcome (i : Instr) (s : State) :
    (∃ e, planOf i s = .error e ∧ e.commits = false ∧
      exec i s = .next (endedWith e s.res s.cal s)) ∨
    (∃ r, planOf i s = .ok (Plan.results r) ∧
      (i = .solve ∨ i = .solveIq ∨ ∃ k r, i = .derive k r) ∧
      exec i s = .next (endedWith .noError r s.cal s)) ∨
    (∃ p, planOf i s = .ok p ∧ p.writes ≠ [] ∧ exec i s = .next (issuing p.pend p.writes s)) := by
  rcases exec_cases i s with ⟨e, he, h⟩ | ⟨p, hp, h⟩
  · exact .inl ⟨e, he, planOf_error he, by rw [h, complete_error (planOf_error he)]⟩
  · by_cases hw : p.writes = []
    · obtain ⟨⟨r, rfl⟩, hi⟩ := planOf_noWrites hp hw
      exact .inr (.inl ⟨r, hp, hi, by rw [h, launch_results]⟩)
    · exact .inr (.inr ⟨p, hp, hw, by rw [h, launch_issuing hw]⟩)

/-- A step of CORE and BUS, by SEQ (R44, R45, R103, R314). -/
theorem coreStep_cases {s t : State} (h : coreStep s = .next t) :
    (s.seq = .idle ∧ t = s) ∨
    (∃ i, s.seq = .exec ∧ decode s.latch.cmd = .ok i ∧ exec i s = .next t) ∨
    (∃ r, s.seq = .exec ∧ decode s.latch.cmd = .error r ∧ t = complete .illegalCommand s) ∨
    (s.seq = .issue ∧ t = issueStep s) := by
  unfold coreStep coreAction at h
  cases hs : s.seq with
  | idle => simp [hs] at h; exact .inl ⟨rfl, h.symm⟩
  | exec =>
    simp only [hs] at h
    cases hd : decode s.latch.cmd with
    | ok i => simp [hd] at h; exact .inr (.inl ⟨i, rfl, rfl, h⟩)
    | error r => simp [hd] at h; exact .inr (.inr (.inl ⟨r, rfl, rfl, h.symm⟩))
  | issue => simp [hs] at h; exact .inr (.inr (.inr ⟨rfl, h.symm⟩))

/-- CORE never stops: its turn always answers a next state. -/
theorem coreStep_next (s : State) : ∃ t, coreStep s = .next t := by
  unfold coreStep
  split
  · rcases exec_cases ‹Instr› s with ⟨e, -, h⟩ | ⟨p, -, h⟩ <;> exact ⟨_, h⟩
  · exact ⟨_, rfl⟩

/-- A platform access that is admitted is at HOST_BASE + 4k for its offset k (R70). -/
theorem hostOffset_ok {p : Params} {addr size : Nat} {off : BitVec 4}
    (h : hostOffset p addr size = .ok off) :
    size = 4 ∧ addr = 64 * p.hostPage + 4 * off.toNat := by
  unfold hostOffset at h
  split at h
  · cases h
  · split at h
    · rename_i h1 h2
      cases h
      refine ⟨by omega, ?_⟩
      rw [BitVec.toNat_ofNat, Nat.mod_eq_of_lt (by omega)]
      omega
    · cases h

/-- CORE's step in EXEC on a legal word (R44). -/
theorem coreStep_exec {s : State} {i : Instr} (hs : s.seq = .exec)
    (hd : decode s.latch.cmd = .ok i) : coreStep s = exec i s := by
  simp [coreStep, coreAction, hs, hd]

/-- CORE's step in EXEC on an illegal word (R106). -/
theorem coreStep_illegal {s : State} {r : Illegal} (hs : s.seq = .exec)
    (hd : decode s.latch.cmd = .error r) : coreStep s = .next (complete .illegalCommand s) := by
  simp [coreStep, coreAction, hs, hd]

/-- CORE's step in ISSUE (R45). -/
theorem coreStep_issue {s : State} (hs : s.seq = .issue) :
    coreStep s = .next (issueStep s) := by simp [coreStep, coreAction, hs]

/-- What a completion changes that the host can see, and what it is the completion of: the values
before it are those of `s`, but BUSFAULT, which a bus fault has just written (R83, R306). -/
def CompletesAs (e : ErrCode) (s t : State) : Prop :=
  ∃ u, t = complete e u ∧ u.cal = s.cal ∧ u.res = s.res ∧ u.status = s.status ∧
    u.latch = s.latch ∧ u.pend = s.pend ∧ (u.busFault ≠ s.busFault → e = .busFault)

/-- What a step of CORE and BUS can do to STATUS, RES, CAL and BUSFAULT: nothing, or, outside IDLE, it
completes the command and does all of it at once (R48, R83). PEND is then what it was, or what the
EXEC step of this command has just computed. -/
theorem coreStep_visible {s t : State} (h : coreStep s = .next t) :
    (t.cal = s.cal ∧ t.status = s.status ∧ t.res = s.res ∧ t.busFault = s.busFault) ∨
    (s.seq = .exec ∧ ∃ e r, t = endedWith e r s.cal s) ∨
    (s.seq = .issue ∧ ∃ e, CompletesAs e s t) := by
  obtain ⟨-, rfl⟩ | ⟨i, hs, -, h⟩ | ⟨r, hs, -, rfl⟩ | ⟨hs, rfl⟩ := coreStep_cases h
  · exact .inl ⟨rfl, rfl, rfl, rfl⟩
  · rcases exec_outcome i s with ⟨e, -, -, h'⟩ | ⟨r, -, -, h'⟩ | ⟨p, -, -, h'⟩ <;>
      rw [h'] at h <;> cases h
    · exact .inr (.inl ⟨hs, _, _, rfl⟩)
    · exact .inr (.inl ⟨hs, _, _, rfl⟩)
    · exact .inl ⟨rfl, rfl, rfl, rfl⟩
  · exact .inr (.inl ⟨hs, _, _, complete_error rfl s⟩)
  · rcases issueStep_cases s with ⟨-, e⟩ | ⟨w, -, -, e⟩ | ⟨w, -, -, e⟩ <;> rw [e]
    · exact .inr (.inr ⟨hs, _, _, rfl, rfl, rfl, rfl, rfl, rfl, fun h => absurd rfl h⟩)
    · rcases writeStep_cases w s with ⟨-, e⟩ | ⟨c, -, e⟩ <;> rw [e]
      · exact .inl ⟨rfl, rfl, rfl, rfl⟩
      · exact .inr (.inr ⟨hs, _, _, rfl, rfl, rfl, rfl, rfl, rfl, fun _ => rfl⟩)
    · rcases probeStep_cases s with ⟨-, e⟩ | ⟨-, -, e⟩ | ⟨-, -, -, e⟩ <;> rw [e]
      · exact .inl ⟨rfl, rfl, rfl, rfl⟩
      · exact .inl ⟨rfl, rfl, rfl, rfl⟩
      · exact .inr (.inr ⟨hs, _, _, rfl, rfl, rfl, rfl, rfl, rfl, fun h => absurd rfl h⟩)

/-- A step in CORE's turn (log 2). -/
theorem step_core {s t : State} (hw : s.par.dev.wellFormed = true) (h : CoreTurn s t) :
    step s = coreStep t := by
  rcases h with ⟨hi, rfl⟩ | ⟨rest, hi, rfl⟩ <;> simp [step, hw, schedule, hi]

/-- One step that answers a next state: CORE's turn (the host passes or is silent), or one host
event. -/
theorem step_cases {s t : State} (h : step s = .next t) :
    s.par.dev.wellFormed = true ∧
    ((∃ l, coreStep { s with inputs := l } = .next t) ∨
     (∃ l off, t = readStep off { s with inputs := l }) ∨
     (∃ l off v, HostWrites s off v ∧ t = hostWrite off v { s with inputs := l }) ∨
     (∃ l, t = { s with inputs := l }) ∨
     (∃ l, ResetsNext s ∧ t = resetStep { s with inputs := l })) := by
  unfold step at h
  split at h
  · refine ⟨‹_›, ?_⟩
    cases hi : s.inputs with
    | nil => simp only [schedule, hi] at h; exact .inl ⟨[], by rw [← hi]; exact h⟩
    | cons ev rest =>
      cases ev with
      | pass => simp only [schedule, hi] at h; exact .inl ⟨rest, h⟩
      | read off =>
        simp only [schedule, hi, Host.Outcome.next.injEq] at h
        exact .inr (.inl ⟨rest, off, h.symm⟩)
      | write off v =>
        simp only [schedule, hi, Host.Outcome.next.injEq] at h
        exact .inr (.inr (.inl ⟨rest, off, v, ⟨rest, .inl hi⟩, h.symm⟩))
      | busRead addr size =>
        simp only [schedule, hi] at h
        cases ho : hostOffset s.par addr size with
        | ok off =>
          simp only [ho, Host.Outcome.next.injEq] at h
          exact .inr (.inl ⟨rest, off, h.symm⟩)
        | error f => simp [ho] at h
      | busWrite addr size v =>
        simp only [schedule, hi] at h
        cases ho : hostOffset s.par addr size with
        | ok off =>
          simp only [ho, Host.Outcome.next.injEq] at h
          obtain ⟨rfl, rfl⟩ := hostOffset_ok ho
          exact .inr (.inr (.inl ⟨rest, off, v, ⟨rest, .inr hi⟩, h.symm⟩))
        | error f => simp [ho] at h
      | wait =>
        simp only [schedule, hi, pollStep, Host.Outcome.next.injEq] at h
        exact .inr (.inl ⟨_, 0x1, h.symm⟩)
      | pseudo p =>
        simp only [schedule, hi, Host.Outcome.next.injEq] at h
        exact .inr (.inr (.inr (.inl ⟨_, h.symm⟩)))
      | reset =>
        simp only [schedule, hi, Host.Outcome.next.injEq] at h
        exact .inr (.inr (.inr (.inr ⟨rest, ⟨rest, hi⟩, h.symm⟩)))
  · cases h

/-! ### Runs of `core` -/

theorem core_run_zero (s : State) : core.run 0 s = (.next s : Host.Outcome State Fault Refusal) := rfl

/-- A run of at least one step is the run from what the first step answers. -/
theorem core_run_step {s : State} {o : Host.Outcome State Fault Refusal} (h : step s = o) (k : Nat) :
    core.run (k + 1) s =
      match (motive := Host.Outcome State Fault Refusal → Host.Outcome State Fault Refusal) o with
      | .next t => core.run k t
      | .fault r => .fault r
      | .refused r => .refused r := by
  have e := Host.Core.run.eq_2 core s k
  have h' : core.step s = o := h
  rw [h'] at e
  cases o <;> exact e

/-- A run takes one step and goes on. -/
theorem core_run_succ {s t : State} (h : step s = .next t) (k : Nat) :
    core.run (k + 1) s = core.run k t := core_run_step h k

theorem core_run_one {s t : State} (h : step s = .next t) :
    core.run 1 s = (.next t : Host.Outcome State Fault Refusal) := core_run_succ h 0

/-- Runs compose. -/
theorem core_run_add (m n : Nat) {s t : State}
    (h : core.run m s = (.next t : Host.Outcome State Fault Refusal)) :
    core.run (m + n) s = core.run n t := by
  induction m generalizing s with
  | zero =>
    cases (core_run_zero s).symm.trans h
    rw [Nat.zero_add]
  | succ m ih =>
    cases hs : step s with
    | next u =>
      rw [Nat.succ_add, core_run_succ hs]
      exact ih ((core_run_succ hs m).symm.trans h)
    | fault r => cases (core_run_step hs m).symm.trans h
    | refused r => cases (core_run_step hs m).symm.trans h

end Sys2Proof.Machine
end

