-- ==== Sys2Proof/Laws/Events.lean ====
section
/-! SUPPORT. The events of a step and of a run, by cases: later proofs cite these instead of unfolding
`completesNext`, `coreEvents` and `runEvents`. -/

namespace Sys2Proof.Machine

theorem completesNext_eq {s t : State} (h : coreStep s = .next t) :
    completesNext s = (s.seq != .idle && t.seq == .idle) := by simp [completesNext, h]

/-- The events of a step of CORE and BUS: its work, and the completion where it goes to IDLE. -/
theorem coreEvents_eq {s t : State} (h : coreStep s = .next t) :
    coreEvents s =
      workEvents s ++ if s.seq ≠ .idle ∧ t.seq = .idle then [.completion] else [] := by
  simp [coreEvents, completesNext_eq h]

/-- The events of an EXEC step (R44, R370). -/
theorem coreEvents_exec {s t : State} (hs : s.seq = .exec) (h : coreStep s = .next t) :
    coreEvents s = if t.seq = .idle then [.exec, .completion] else [.exec] := by
  rw [coreEvents_eq h]
  by_cases ht : t.seq = .idle <;> simp [workEvents, hs, ht]

/-- The events of the step that finds every write of Q accepted (R45, R370). -/
theorem coreEvents_done {s : State} (hs : s.seq = .issue) (hq : s.q.length ≤ s.widx) :
    coreEvents s = [.completion] := by
  have h : coreStep s = .next (complete .noError s) := by
    rw [coreStep_issue hs, issueStep, List.getElem?_eq_none hq]
  rw [coreEvents_eq h]
  simp [workEvents, hs, List.getElem?_eq_none hq]

theorem stepEvents_silent {s : State} (hi : s.inputs = []) : stepEvents s = coreEvents s := by
  simp [stepEvents, hi]

theorem runEvents_succ {s t : State} (h : step s = .next t) (k : Nat) :
    runEvents (k + 1) s = stepEvents s ++ runEvents k t := by simp [runEvents, h]

/-- The events of a run of two parts. -/
theorem runEvents_add (m n : Nat) {s t : State}
    (h : core.run m s = (.next t : Host.Outcome State Fault Refusal)) :
    runEvents (m + n) s = runEvents m s ++ runEvents n t := by
  induction m generalizing s with
  | zero =>
    cases (core_run_zero s).symm.trans h
    rw [Nat.zero_add]; rfl
  | succ m ih =>
    cases hs : step s with
    | next u =>
      rw [Nat.succ_add, runEvents_succ hs, runEvents_succ hs, List.append_assoc]
      rw [ih ((core_run_succ hs m).symm.trans h)]
    | fault r => cases (core_run_step hs m).symm.trans h
    | refused r => cases (core_run_step hs m).symm.trans h

end Sys2Proof.Machine
end

