-- ==== Sys2Proof/Laws/Memory.lean ====
section
/-! SUPPORT. The device image: its canonical form, and reading after writing. -/

namespace Sys2Proof.Machine

theorem Memory.wf_cons {c : Host.Cell} {m : Memory} :
    Memory.wf (c :: m) = true ↔ (∀ d ∈ m.head?, c.1 < d.1) ∧ Memory.wf m = true := by
  cases m <;> simp [Memory.wf]

theorem Memory.head_write (m : Memory) (a : Nat) (b : Byte) :
    ∀ d ∈ (Memory.write m a b).head?, d.1 = a ∨ d ∈ m.head? := by
  cases m with
  | nil => simp [Memory.write]
  | cons c rest => simp only [Memory.write]; split <;> [skip; split] <;> simp

/-- Writing keeps the canonical form. -/
theorem Memory.wf_write {m : Memory} (h : Memory.wf m = true) (a : Nat) (b : Byte) :
    Memory.wf (Memory.write m a b) = true := by
  induction m with
  | nil => rfl
  | cons c rest ih =>
    have hc := Memory.wf_cons.mp h
    simp only [Memory.write]
    split
    · exact Memory.wf_cons.mpr ⟨by simpa using ‹a < c.1›, h⟩
    · split
      · rename_i hac; subst hac; exact Memory.wf_cons.mpr ⟨hc.1, hc.2⟩
      · refine Memory.wf_cons.mpr ⟨fun d hd => ?_, ih hc.2⟩
        rcases Memory.head_write rest a b d hd with h' | h'
        · omega
        · exact hc.1 d h'

/-- Every listed address of a canonical tail lies above the head's. -/
theorem Memory.read_below {c : Host.Cell} {m : Memory} (h : Memory.wf (c :: m) = true) {a : Nat}
    (ha : a ≤ c.1) : Memory.read m a = none := by
  induction m generalizing c with
  | nil => rfl
  | cons d rest ih =>
    have hc := Memory.wf_cons.mp h
    have hd : c.1 < d.1 := hc.1 d (by simp)
    simp only [Memory.read, if_neg (by omega : d.1 ≠ a)]
    exact ih hc.2 (by omega)

theorem Memory.read_write_same {m : Memory} (h : Memory.wf m = true) (a : Nat) (b : Byte) :
    Memory.read (Memory.write m a b) a = some b := by
  induction m with
  | nil => simp [Memory.write, Memory.read]
  | cons c rest ih =>
    simp only [Memory.write]
    split
    · simp [Memory.read]
    · split
      · simp [Memory.read]
      · simp only [Memory.read, if_neg (fun e : c.1 = a => by omega)]
        exact ih (Memory.wf_cons.mp h).2

theorem Memory.read_write_other {m : Memory} (a : Nat) (b : Byte) {x : Nat} (hx : x ≠ a) :
    Memory.read (Memory.write m a b) x = Memory.read m x := by
  induction m with
  | nil => simp [Memory.write, Memory.read, Ne.symm hx]
  | cons c rest ih =>
    simp only [Memory.write]
    split
    · simp [Memory.read, Ne.symm hx]
    · split
      · rename_i hac; subst hac; simp [Memory.read, Ne.symm hx]
      · simp only [Memory.read, ih]

/-- The image of a log with one more write is that image written once more. -/
theorem deviceImage_append (log : List Write) (w : Write) :
    deviceImage (log ++ [w]) = Memory.write (deviceImage log) w.reg.toNat w.data := by
  simp [deviceImage]

end Sys2Proof.Machine
end

