-- ==== Sys2Proof/Laws/PerInstr.lean ====
section
/-! SUPPORT. Statements about the commands as words, one lemma per constructor. Family Select
(30_encoding.md R105): under the select mask a command's word is its opcode, so its reserved bits are
0. -/

namespace Sys2Proof.Laws

/-- The word of a command, under the select mask, is its opcode (R105). -/
def Select.Statement (i : Instr) : Prop := encode i &&& selectMask = (opcode i).setWidth 32

/-- Under the select mask only OP is left of a CMD32 word whose reserved bits are 0. -/
theorem cmd32_select (imm8 chan : Byte) (drive : BitVec 2) (rsel : BitVec 3) (aim kind pll : Bool)
    (op : BitVec 4) :
    cmd32 imm8 chan drive rsel aim kind pll op &&& selectMask = op.setWidth 32 := by
  apply BitVec.eq_of_getLsbD_eq
  intro k hk
  rw [BitVec.getLsbD_and, cmd32_getLsbD _ _ _ _ _ _ _ _ hk]
  interval_cases k <;> simp [selectMask]

theorem Select.init : Select.Statement .init := cmd32_select ..
theorem Select.solve : Select.Statement .solve := cmd32_select ..
theorem Select.solveIq : Select.Statement .solveIq := cmd32_select ..
theorem Select.derive (kind : Kind) (rsel : BitVec 3) : Select.Statement (.derive kind rsel) :=
  cmd32_select ..
theorem Select.setupPll (pll : Pll) : Select.Statement (.setupPll pll) := cmd32_select ..
theorem Select.setupOutput (chan : Byte) (pll : Pll) (drive : BitVec 2) (aim : Bool)
    (rsel : BitVec 3) (phase : Byte) :
    Select.Statement (.setupOutput chan pll drive aim rsel phase) := cmd32_select ..
theorem Select.setOe (mask : Byte) : Select.Statement (.setOe mask) := cmd32_select ..
theorem Select.setupClk0 (drive : BitVec 2) : Select.Statement (.setupClk0 drive) :=
  cmd32_select ..
theorem Select.setupClk2 (drive : BitVec 2) : Select.Statement (.setupClk2 drive) :=
  cmd32_select ..

end Sys2Proof.Laws
end

