-- ==== Sys2Proof/Tests/Slice0.lean ====
section
/-! SUPPORT. Tests with values from spec/95_test_vectors.md or worked out by hand from the spec's
encodings, and for each obligation with hypotheses a concrete state that meets them. -/

namespace Sys2Proof.Tests

open Sys2Proof Sys2Proof.Machine

/-! ### Helpers -/

/-- The next state of an outcome, if there is one. -/
def stateOf (o : Host.Outcome State Fault Refusal) : Option State :=
  match o with
  | .next s => some s
  | _ => none

/-- The reset state with a coming list of host events. -/
def hosted (ev : List HostEvent) : State := { State.reset with inputs := ev }

/-- The reset state with `w` accepted, the operands being a0, a1, a2 and CAL being `cal`. -/
def loaded (w a0 a1 a2 : Word) (cal : Word := 0) : State :=
  accept w { State.reset with args := ⟨a0, a1, a2⟩, cal := cal }

/-- RES0..RES7 of an outcome, as numbers. -/
def resOf (o : Host.Outcome State Fault Refusal) : Option (List Nat) :=
  (stateOf o).map fun s =>
    [s.res.r0, s.res.r1, s.res.r2, s.res.r3, s.res.r4, s.res.r5, s.res.r6, s.res.r7].map
      BitVec.toNat

/-- The writes an outcome is about to issue, as pairs of numbers. -/
def writesOf (o : Host.Outcome State Fault Refusal) : Option (List (Nat × Nat)) :=
  (stateOf o).map fun s => s.q.map fun w => (w.reg.toNat, w.data.toNat)

/-- STATUS of an outcome. -/
def statusOf (o : Host.Outcome State Fault Refusal) : Option Nat :=
  (stateOf o).map fun s => s.status.toWord.toNat

/-! ### Well-formedness: ill-formed words and profiles are refused (R105, R106, R72, R251) -/

theorem test_wf_bit7 : legalWord 0x00000082 = false := by decide
theorem test_wf_bit13 : legalWord 0x00002002 = false := by decide
theorem test_wf_bit14 : legalWord 0x00004002 = false := by decide
theorem test_wf_bit15 : legalWord 0x00008002 = false := by decide
theorem test_wf_opcodes :
    (List.range 16).map (fun op => legalWord (BitVec.ofNat 32 op)) =
      [false, true, true, true, true, true, true, true, true, true,
       false, false, false, false, false, false] := by decide
theorem test_wf_unread : legalWord 0xFFFF1F72 = true := by decide
theorem test_wf_pllBaseA : ({ defaultDevMap with pllBaseA := 0xF9 }).wellFormed = false := by decide
theorem test_wf_pllBaseB : ({ defaultDevMap with pllBaseB := 0xF9 }).wellFormed = false := by decide
theorem test_wf_msBase0 : ({ defaultDevMap with msBase0 := 0xF9 }).wellFormed = false := by decide
theorem test_wf_msBase1 : ({ defaultDevMap with msBase1 := 0xF9 }).wellFormed = false := by decide
theorem test_wf_msBase2 : ({ defaultDevMap with msBase2 := 0xF9 }).wellFormed = false := by decide
theorem test_wf_base_max : ({ defaultDevMap with msBase2 := 0xF8 }).wellFormed = true := by decide
theorem test_wf_resetVal : ({ defaultDevMap with pllResetVal := 0x80 }).wellFormed = false := by
  decide
theorem test_step_refuses_illFormed :
    step { State.reset with par := { defaultParams with dev := { defaultDevMap with msBase2 := 0xF9 } } } =
      .refused .illFormedDevMap := by rfl

/-! ### Decoding: words written out bit by bit from R100, R103, R110 -/

theorem test_decode_init : decode 0b00000000_00000000_000_00_000_0_0_0_0_0001 = .ok .init := by rfl
theorem test_decode_solve : decode 0b00000000_00000000_000_00_000_0_0_0_0_0010 = .ok .solve := by rfl
theorem test_decode_solve_unread :
    decode 0b11111111_11111111_000_11_111_0_1_1_1_0010 = .ok .solve := by rfl
theorem test_decode_solveIq : decode 0b00000000_00000000_000_00_000_0_0_0_0_0011 = .ok .solveIq := by
  rfl
theorem test_decode_derive_div :
    decode 0b00000000_00000000_000_00_110_0_0_1_0_0100 = .ok (.derive .div 6) := by rfl
theorem test_decode_derive_pll :
    decode 0b00000000_00000000_000_00_000_0_0_0_0_0100 = .ok (.derive .pll 0) := by rfl
theorem test_decode_setupPll_b :
    decode 0b00000000_00000000_000_00_000_0_0_0_1_0101 = .ok (.setupPll .b) := by rfl
theorem test_decode_setupOutput :
    decode 0b01000000_00000001_000_01_011_0_1_0_1_0110 =
      .ok (.setupOutput 1 .b 1 true 3 0x40) := by rfl
theorem test_decode_setOe : decode 0b00000101_00000000_000_00_000_0_0_0_0_0111 = .ok (.setOe 5) := by
  rfl
theorem test_decode_setupClk0 :
    decode 0b00000000_00000000_000_11_000_0_0_0_0_1000 = .ok (.setupClk0 3) := by rfl
theorem test_decode_setupClk2 :
    decode 0b00000000_00000000_000_01_000_0_0_0_0_1001 = .ok (.setupClk2 1) := by rfl
theorem test_decode_zero : decode 0 = .error .reservedOpcode := by rfl
theorem test_decode_bit14 : decode 0x00004002 = .error .reservedBit := by rfl
/-- R110's word for SETUP_OUTPUT 0, A, 8MA, aim 1 is 0x00001846 (95 W5). -/
theorem test_encode_setupOutput : encode (.setupOutput 0 .a 3 true 0 0) = 0x00001846 := by decide
theorem test_decodeTableWord : decodeTableWord 32 0x00000809 = some (.setupClk2 1) := by rfl

/-! ### One EXEC step of each command (95 Part 2) -/

/-- 95 section 8: INIT −150. -/
theorem test_init_writes :
    writesOf (exec .init (loaded 1 (-150) 0 0)) =
      some [(3, 0xFF), (16, 0x80), (17, 0x80), (18, 0x80), (19, 0x80), (20, 0x80), (21, 0x80),
            (22, 0x80), (23, 0x80), (183, 0xC0)] := by decide
/-- 95 section 8: INIT 100,000,000. -/
theorem test_init_refused : statusOf (exec .init (loaded 1 100000000 0 0)) = some 0x32 := by decide

/-- 95 section 2: SOLVE 500,000 with CAL = −150. -/
theorem test_solve_low :
    resOf (exec .solve (loaded 2 500000 0 0 (-150))) =
      some [36, 0, 1, 28, 128988, 1032259, 0xE, 32000048] := by decide +kernel
/-- 95 section 2: SOLVE 160,000,000 with CAL = −99,999,999. -/
theorem test_solve_high :
    resOf (exec .solve (loaded 2 160000000 0 0 (-99999999))) =
      some [51, 208333, 1041666, 4, 0, 1, 0x8, 319999998] := by decide +kernel

/-- 95 section 3: SOLVE_IQ 7,000,000 with CAL = 150. -/
theorem test_solveIq :
    resOf (exec .solveIq (loaded 3 7000000 0 0 150)) =
      some [24, 958296, 1041666, 89, 0, 1, 0, 6999990] := by decide +kernel
/-- 95 section 3: SOLVE_IQ 100,000,000 with CAL = −1. -/
theorem test_solveIq_top :
    resOf (exec .solveIq (loaded 3 100000000 0 0 (-1))) =
      some [32, 0, 1041666, 8, 0, 1, 0, 100000001] := by decide +kernel

/-- 95 section 4: DERIVE.DIV 1757/416,000/512,000 with rsel 6. -/
theorem test_derive :
    resOf (exec (.derive .div 6) (loaded 0x624 1757 416000 512000)) =
      some [224488, 0, 512000, 0, 0xD000636C, 0xE8700000, 0, 0] := by decide +kernel
/-- 95 section 4: DERIVE.DIV 3/0/1, where P1 wraps. -/
theorem test_derive_wraps :
    resOf (exec (.derive .div 0) (loaded 0x24 3 0 1)) =
      some [0xFFFFFF80, 0, 1, 0, 0x000103FF, 0x80000000, 0, 0] := by decide +kernel

/-- 95 section 5: SETUP_PLL A, 24, 958,333, 1,041,666. -/
theorem test_setupPll :
    writesOf (exec (.setupPll .a) (loaded 5 24 958333 1041666)) =
      some [(26, 0xE5), (27, 0x02), (28, 0x00), (29, 0x0A), (30, 0x75), (31, 0xFC), (32, 0x14),
            (33, 0x96), (177, 0xA0)] := by decide +kernel
/-- 95 section 5: SETUP_PLL B, 36, 0, 0. -/
theorem test_setupPll_zero : statusOf (exec (.setupPll .b) (loaded 0x15 36 0 0)) = some 0x42 := by
  decide +kernel

/-- 95 section 6: channel 1, PLL A, 4MA, 10/1/3, aim 1, rsel 3. -/
theorem test_setupOutput :
    writesOf (exec (.setupOutput 1 .a 1 true 3 0) (loaded 0x00010B46 10 1 3)) =
      some [(17, 0x0D), (50, 0x00), (51, 0x03), (52, 0x30), (53, 0x03), (54, 0x2A), (55, 0x00),
            (56, 0x00), (57, 0x02), (166, 0x00)] := by decide +kernel
/-- 95 section 6: channel 2, PLL B, 6MA, divider 4 with denominator 0, aim 1. -/
theorem test_setupOutput_four :
    writesOf (exec (.setupOutput 2 .b 2 true 0 0) (loaded 0x00021056 4 7 0)) =
      some [(18, 0x6E), (58, 0x00), (59, 0x01), (60, 0x0C), (61, 0x00), (62, 0x00), (63, 0x00),
            (64, 0x00), (65, 0x00), (167, 0x00)] := by decide +kernel

/-- 95 section 7. -/
theorem test_setOe : writesOf (exec (.setOe 5) (loaded 0x05000007 0 0 0)) = some [(3, 0xFA)] := by
  decide

/-- 95 P5: SETUP_CLK0 150,000,000, 8MA. -/
theorem test_setupClk0 :
    writesOf (exec (.setupClk0 3) (loaded 0x1808 150000000 0 0)) =
      some [(26, 0xE5), (27, 0x02), (28, 0x00), (29, 0x0A), (30, 0x00), (31, 0xF0), (32, 0x00),
            (33, 0x00), (177, 0xA0), (16, 0x4F), (42, 0x00), (43, 0x01), (44, 0x0C), (45, 0x00),
            (46, 0x00), (47, 0x00), (48, 0x00), (49, 0x00), (165, 0x00)] := by decide +kernel
/-- 95 P4: SETUP_CLK2 500,000, 4MA with CAL = −150. -/
theorem test_setupClk2 :
    writesOf (exec (.setupClk2 1) (loaded 0x809 500000 0 0 (-150))) =
      some [(34, 0x00), (35, 0x01), (36, 0x00), (37, 0x10), (38, 0x00), (39, 0x00), (40, 0x00),
            (41, 0x00), (177, 0xA0), (18, 0x2D), (58, 0xC0), (59, 0x43), (60, 0x60), (61, 0x0C),
            (62, 0x0F), (63, 0xFF), (64, 0xAA), (65, 0x13), (167, 0x00)] := by decide +kernel

/-! ### Steps (95 sections 10 and 11) -/

/-- 95 section 11, step 3: a CMD write while BUSY. -/
theorem test_step_ovr :
    statusOf (step { loaded 2 10000000 0 0 with inputs := [.write 0 1] }) = some 0x09 := by decide
/-- 95 section 11, steps 2 to 4: SOLVE is accepted, the one CORE step completes it. -/
theorem test_step_solve_completes :
    statusOf (step (hosted [.write 0 2])) = some 0x01 ∧
    statusOf (step { loaded 2 10000000 0 0 with status := ⟨true, false, false, true, .noError⟩ }) =
      some 0x0A ∧
    resOf (step (loaded 2 10000000 0 0)) = some [36, 0, 1, 90, 0, 1000000, 8, 10000000] := by
  decide +kernel
/-- 95 section 10: an illegal word. -/
theorem test_step_illegal : statusOf (step (loaded 0x82 0 0 0)) = some 0x52 := by decide
/-- The word that `withFetchWord` places is the next to run (95 section 7). -/
theorem test_step_fetched :
    writesOf (step (State.reset.withFetchWord 32 0x05000007)) = some [(3, 0xFA)] := by decide

/-! ### Witnesses: for each obligation with hypotheses, a state and operands that meet them -/

theorem reset_wf : State.reset.par.dev.wellFormed = true := by decide

theorem witness_EncodeDecodedWord :
    decode 0xFFFF1F72 = .ok .solve ∧ encode .solve = 0xFFFF1F72 &&& readMask .solve := by
  refine ⟨rfl, by decide⟩

/-- Both ends of the reserved and of the legal opcodes, and each reserved bit. -/
theorem witness_DecodeFollowsTable :
    decode 0x00000000 = .error .reservedOpcode ∧ decode 0x0000000A = .error .reservedOpcode ∧
    decode 0x0000000F = .error .reservedOpcode ∧ decode 0x00000001 = .ok .init ∧
    decode 0x00000009 = .ok (.setupClk2 0) ∧ decode 0x00000082 = .error .reservedBit ∧
    decode 0x00002002 = .error .reservedBit ∧ decode 0x00008002 = .error .reservedBit :=
  ⟨rfl, rfl, rfl, rfl, rfl, rfl, rfl, rfl⟩

theorem witness_UnreadFieldsIgnored :
    decode 0x40010B56 = .ok (.setupOutput 1 .b 1 true 3 0x40) ∧
    0x40010B76#32 &&& readMask (.setupOutput 1 .b 1 true 3 0x40) =
      0x40010B56#32 &&& readMask (.setupOutput 1 .b 1 true 3 0x40) := by
  refine ⟨rfl, by decide⟩

/-- Both ends of the opcode range, and a word of each side of the second clause. -/
theorem witness_MaskSelectsCommand :
    (decode 0x00001F71 = .ok .init ∧ opcode .init = 1 ∧ 0x00001F71#32 &&& 0x0000E08F#32 = 1) ∧
    (decode 0x00001849 = .ok (.setupClk2 3) ∧ opcode (.setupClk2 3) = 9) ∧
    decode 0x0000000A = .error .reservedOpcode := by
  refine ⟨⟨rfl, rfl, by decide⟩, ⟨rfl, rfl⟩, rfl⟩

/-- CORE's turn by silence and by the host's pass. -/
theorem witness_CoreTurn :
    CoreTurn (loaded 0x05000007 0 0 0) (loaded 0x05000007 0 0 0) ∧
    CoreTurn { loaded 0x05000007 0 0 0 with inputs := [.pass] } (loaded 0x05000007 0 0 0) :=
  ⟨.inl ⟨rfl, rfl⟩, .inr ⟨[], rfl, rfl⟩⟩

theorem witness_StepRunsDecodedCommand :
    (loaded 0x05000007 0 0 0).par.dev.wellFormed = true ∧
    (loaded 0x05000007 0 0 0).seq = .exec ∧
    decode (loaded 0x05000007 0 0 0).latch.cmd = .ok (.setOe 5) := by
  refine ⟨by decide, rfl, rfl⟩

theorem witness_IllegalWordEndsCommand :
    CoreTurn (loaded 0x82 0 0 0) (loaded 0x82 0 0 0) ∧ (loaded 0x82 0 0 0).seq = .exec ∧
    (loaded 0x82 0 0 0).par.dev.wellFormed = true ∧
    (loaded 0x82 0 0 0).latch.cmd.getLsbD 7 = true ∧
    (loaded 0x2002 0 0 0).latch.cmd.extractLsb' 13 3 ≠ 0 ∧
    ((loaded 0 0 0 0).latch.cmd.extractLsb' 0 4).toNat = 0 ∧
    10 ≤ ((loaded 0xA 0 0 0).latch.cmd.extractLsb' 0 4).toNat := by
  refine ⟨.inl ⟨rfl, rfl⟩, rfl, by decide, by decide, by decide, by decide, by decide⟩

/-- The three ends of an EXEC step: results at once, a validation error, and writes to issue. -/
theorem witness_ExecFrame :
    (stateOf (exec .init (loaded 1 100000000 0 0))).map State.seq = some .idle ∧
    (stateOf (exec .solve (loaded 2 10000000 0 0))).map State.seq = some .idle ∧
    (stateOf (exec (.setOe 5) (loaded 0x05000007 0 0 0))).map State.seq = some .issue := by
  decide +kernel

/-- Two states that agree on L, CAL and the parameters but differ elsewhere. -/
theorem witness_ExecReadsOnlyLatchAndCal :
    let s := loaded 2 10000000 0 0
    let s' := { s with args := ⟨1, 2, 3⟩, res := ⟨7, 7, 7, 7, 7, 7, 7, 7⟩ }
    s.latch = s'.latch ∧ s.cal = s'.cal ∧ s.par = s'.par ∧ s ≠ s' ∧
    (stateOf (exec .solve s)).isSome = true ∧ (stateOf (exec .solve s')).isSome = true := by
  decide +kernel

/-- An INIT about to complete: its one remaining write is accepted. -/
def initEnding : State :=
  { State.reset with
    cmd := 1, latch := ⟨1, ⟨-150, 0, 0⟩⟩, args := ⟨-150, 0, 0⟩
    status := ⟨true, false, false, false, .noError⟩, seq := .issue
    q := [⟨3, 0xFF⟩], widx := 1, pend := some ⟨none, some (-150), true⟩, log := [⟨3, 0xFF⟩]
    bus := ⟨[], [], 0, [.write 0x60 ⟨3, 0xFF⟩ .ok]⟩ }

theorem initEnding_inv : StateInv initEnding := by
  constructor <;> simp [initEnding, CalLegal, s32, State.reset, State.powerOn, defaultParams,
    acceptedWrites, decode, opField]

theorem loaded_inv (w a0 a1 a2 : Word) : StateInv (loaded w a0 a1 a2) := by
  constructor <;> simp [loaded, accept, Status.accepted, CalLegal, s32, State.reset, State.powerOn]

/-- A step of the issue state that ends INIT changes CAL and INIT_DONE. -/
theorem witness_StepKeepsInv :
    StateInv initEnding ∧ (∃ t, step initEnding = .next t ∧ t.cal ≠ initEnding.cal ∧
      t.status.initDone ≠ initEnding.status.initDone) := by
  refine ⟨initEnding_inv, complete .noError initEnding, rfl, by decide, by decide⟩

theorem witness_CalWrittenOnlyByInit :
    StateInv initEnding ∧ step initEnding = .next (complete .noError initEnding) ∧
    (complete .noError initEnding).cal ≠ initEnding.cal := by
  refine ⟨initEnding_inv, rfl, by decide⟩

theorem witness_InitDoneOnlyByInit :
    StateInv initEnding ∧ step initEnding = .next (complete .noError initEnding) ∧
    (complete .noError initEnding).status.initDone ≠ initEnding.status.initDone := by
  refine ⟨initEnding_inv, rfl, by decide⟩

/-- Reset changes CAL too. -/
theorem witness_reset_changes_cal :
    let s := { State.reset with cal := 5, inputs := [.reset] }
    ResetsNext s ∧ (stateOf (step s)).map State.cal = some 0 ∧ s.cal = 5 :=
  ⟨⟨[], rfl⟩, by decide, rfl⟩

theorem witness_OvrOnlyByHost :
    HostWrites { loaded 2 0 0 0 with inputs := [.write 0 1] } 0 1 ∧
    HostWrites { State.reset with inputs := [.busWrite 4 4 8] } 1 8 ∧
    statusOf (step { loaded 2 0 0 0 with inputs := [.write 0 1] }) = some 9 := by
  exact ⟨⟨[], .inl rfl⟩, ⟨[], .inr rfl⟩, by decide⟩

theorem witness_ResultsChangeOnlyAtCompletion :
    StateInv (loaded 2 10000000 0 0) ∧
    resOf (step (loaded 2 10000000 0 0)) ≠ some [0, 0, 0, 0, 0, 0, 0, 0] := by
  exact ⟨loaded_inv _ _ _ _, by decide +kernel⟩

/-- SET_OE with its one write with BUS. -/
def writing : State :=
  withBus [] [.ok] { loaded 0x05000007 0 0 0 with
    seq := .issue, q := [⟨3, 0xFA⟩], inWrite := true }

/-- A bus fault changes BUSFAULT, ERR, DONE and BUSY at once; an acceptance and a reset change some of
them too. -/
theorem witness_CompletionIsOneStep :
    (stateOf (step (withBus [] [.fault 0x2A] writing))).map State.busFault = some 0x2A ∧
    statusOf (step (withBus [] [.fault 0x2A] writing)) = some 0x62 ∧
    writing.busFault = 0 ∧ writing.status.toWord = 1 ∧
    HostWrites (hosted [.write 0 2]) 0 2 ∧ statusOf (step (hosted [.write 0 2])) = some 1 ∧
    ResetsNext { writing with inputs := [.reset] } ∧
    statusOf (step { writing with inputs := [.reset] }) = some 0 := by
  exact ⟨by decide, by decide, rfl, by decide, ⟨[], .inl rfl⟩, by decide, ⟨[], rfl⟩, by decide⟩

/-- STATUS changes at an acceptance, at the end of an EXEC step, at the end of a write list, and at a
reset. -/
theorem witness_FlagsOnlyByAcceptanceAndCompletion :
    HostWrites (hosted [.write 0 2]) 0 2 ∧ statusOf (step (hosted [.write 0 2])) = some 1 ∧
    statusOf (step (loaded 0x82 0 0 0)) = some 0x52 ∧ (loaded 0x82 0 0 0).seq = .exec ∧
    statusOf (step initEnding) = some 6 ∧ initEnding.q.length ≤ initEnding.widx ∧
    ResetsNext { initEnding with inputs := [.reset] } ∧
    statusOf (step { initEnding with inputs := [.reset] }) = some 0 := by
  exact ⟨⟨[], .inl rfl⟩, by decide, by decide, rfl, by decide, by decide, ⟨[], rfl⟩, by decide⟩

theorem witness_LogGrowsInQOrder :
    (stateOf (step writing)).map State.log = some [⟨3, 0xFA⟩] ∧ writing.log = [] := by decide

/-! ### Witnesses for the host port -/

theorem witness_CmdWriteAccepts :
    (hosted [.write 0x0 2]).par.dev.wellFormed = true ∧ (hosted [.write 0x0 2]).status.busy = false ∧
    statusOf (step (hosted [.write 0x0 2])) = some 1 := by decide

theorem witness_CmdWriteWhileBusyIsLost :
    ({ loaded 2 0 0 0 with inputs := [.write 0x0 1] }).status.busy = true ∧
    ({ loaded 2 0 0 0 with inputs := [.write 0x0 1] }).par.dev.wellFormed = true := by decide

/-- 95 section 11, steps 5 and 6: v[3] = 1 clears OVR, 0x77 does not. -/
theorem witness_StatusWriteClearsOvr :
    let s := { State.reset with status := ⟨false, true, false, true, .noError⟩ }
    statusOf (step { s with inputs := [.write 0x1 8] }) = some 2 ∧
    statusOf (step { s with inputs := [.write 0x1 0x77] }) = some 0xA := by decide

/-- The first and last offsets of the range, and ARG0. -/
theorem witness_ArgAndReadOnlyWrites :
    (stateOf (step (hosted [.write 0x2 5]))).map State.cal = some 0 ∧
    (stateOf (step (hosted [.write 0x4 5]))).map State.args = some ⟨5, 0, 0⟩ ∧
    resOf (step (hosted [.write 0xF 5])) = some [0, 0, 0, 0, 0, 0, 0, 0] := by decide

theorem witness_HostReadsRegisters :
    (stateOf (step { loaded 2 7 0 0 with inputs := [.read 0x0] })).map State.rdata = some 2 ∧
    (stateOf (step { loaded 2 7 0 0 with inputs := [.read 0x7] })).map State.rdata = some 0 ∧
    (stateOf (step { loaded 2 7 0 0 with
      res := ⟨0, 0, 0, 0, 0, 0, 0, 9⟩, inputs := [.read 0xF] })).map State.rdata = some 9 := by decide

/-- An admitted access at the last word, a narrow one, a misaligned one. -/
theorem witness_PlatformAccesses :
    (stateOf (step (hosted [.busRead 60 4]))).isSome = true ∧
    step (hosted [.busRead 0 2]) = .fault .hostAccessNotAdmitted ∧
    step (hosted [.busWrite 2 4 0]) = .fault .hostAccessNotAdmitted ∧
    step (hosted [.busRead 64 4]) = .fault .hostAddressOutsideBlock :=
  ⟨by decide, rfl, rfl, rfl⟩

theorem witness_BulkBlockFitsOrRefused :
    (0xF8#8).toNat ≤ 0xF8 ∧
    0xF8 < ({ defaultDevMap with pllBaseA := 0xF9 }).pllBaseA.toNat ∧
    0xF8 < ({ defaultDevMap with pllBaseB := 0xF9 }).pllBaseB.toNat ∧
    0xF8 < ({ defaultDevMap with msBase0 := 0xF9 }).msBase0.toNat ∧
    0xF8 < ({ defaultDevMap with msBase1 := 0xF9 }).msBase1.toNat ∧
    0xF8 < ({ defaultDevMap with msBase2 := 0xF9 }).msBase2.toNat := by decide

/-- Reset at rest and with a write in flight. -/
theorem witness_ResetAbandonsCommand :
    (stateOf (step { loaded 2 7 0 0 with inputs := [.reset] })).map State.log = some [] ∧
    writing.inWrite = true ∧ writing.q[writing.widx]? = some ⟨3, 0xFA⟩ ∧
    (stateOf (step { writing with inputs := [.reset] })).map State.log = some [⟨3, 0xFA⟩] := by
  decide

theorem witness_StatementIsAccepted :
    (hosted (assemble (.solve 5) ++ [])).inputs = assemble (.solve 5) ++ [] ∧
    (hosted (assemble (.solve 5))).status.busy = false ∧
    (hosted (assemble (.solve 5))).par.dev.wellFormed = true := by decide

theorem witness_HostProgramsExpand :
    (stateOf (step (hosted [.pseudo (.setupSolved 0 .a 3 0)]))).map (fun t => t.inputs.length) =
      some 10 ∧
    (stateOf (step (hosted [.pseudo (.quadPair 0 1 .a 3 7000000)]))).map
      (fun t => t.inputs.length) = some 4 ∧
    (stateOf (step (hosted [.pseudo (.quadOutputs 0 1 .a 3)]))).map (fun t => t.inputs.length) =
      some 15 ∧
    (stateOf (step (hosted [.wait]))).map State.inputs = some [] ∧
    (stateOf (step { writing with inputs := [.wait] })).map State.inputs = some [.pass, .wait] ∧
    (stateOf (step { writing with inputs := [.wait] })).map State.rdata = some 1 := by decide

/-! ### Witnesses for the solver -/

theorem witness_CalibrationRange :
    calSingle 100000000 99999999 = 1 ∧ calQuad 100000000 99999999 = 1 ∧
    calSingle 100000000 (-99999999) = 199999999 ∧ calQuad 10999999 (-150) = 11000014 := by
  decide +kernel

/-- The lower and upper clamp bounds, the boost's edges and the branch's edges (95 section 2). -/
theorem witness_SolveResult_low :
    CalLegal (loaded 2 8000 0 0).cal ∧ CalLegal (loaded 2 8000 0 0 (-99999999)).cal ∧
    CalLegal (loaded 2 8000 0 0 99999999).cal ∧
    resOf (exec .solve (loaded 2 999999 0 0)) =
      some [36, 0, 1, 14, 64530, 1032257, 0xE, 63999936] ∧
    resOf (exec .solve (loaded 2 80999999 0 0)) =
      some [36, 0, 1, 11, 115384, 1038461, 0x8, 80999999] := by
  refine ⟨?_, ?_, ?_, by decide +kernel, by decide +kernel⟩ <;> (unfold CalLegal; decide)

/-- The first high-branch value and the edges of the ladder (95 section 2). -/
theorem witness_SolveResult_high :
    CalLegal (loaded 2 81000000 0 0).cal ∧
    resOf (exec .solve (loaded 2 81000000 0 0)) =
      some [25, 958333, 1041666, 8, 0, 1, 0x8, 81000000] ∧
    resOf (exec .solve (loaded 2 100000000 0 0)) =
      some [24, 0, 1041666, 6, 0, 1, 0x8, 100000000] ∧
    resOf (exec .solve (loaded 2 150000000 0 0)) =
      some [24, 0, 1041666, 4, 0, 1, 0x8, 150000000] := by
  refine ⟨?_, by decide +kernel, by decide +kernel, by decide +kernel⟩
  unfold CalLegal; decide

/-- The edges of the three bands (95 section 3). -/
theorem witness_SolveIqResult :
    CalLegal (loaded 3 4899999 0 0).cal ∧
    resOf (exec .solveIq (loaded 3 4899999 0 0)) =
      some [24, 929161, 1041666, 127, 0, 1, 0, 4899999] ∧
    resOf (exec .solveIq (loaded 3 7999999 0 0)) =
      some [24, 999996, 1041666, 78, 0, 1, 0, 7999999] ∧
    resOf (exec .solveIq (loaded 3 8000000 0 0)) =
      some [35, 875000, 1041666, 112, 0, 1, 0, 8000000] := by
  refine ⟨?_, by decide +kernel, by decide +kernel, by decide +kernel⟩
  unfold CalLegal; decide

theorem witness_SolveRanges : (-99999999 : Int) ≤ -99999999 ∧ (-99999999 : Int) ≤ 99999999 ∧
    (solve1 160000000 (-99999999)).freq = 319999998 := by decide +kernel

theorem witness_SolveIqRanges :
    (solveQuad 100000000 (-99999999)).freq = 199999999 ∧ (solveQuad 1400000 0).pc.mult = 7 := by
  decide +kernel

theorem witness_LowBranchAccuracy :
    (512000 : Int) ≤ 512000 ∧ (512000 : Int) < 81000000 ∧ (512000 : Int) ≤ 75000000 ∧
    (solveLow 80999969 0).dc.num = 115388 := by decide +kernel

theorem witness_HighBranchAccuracy :
    (81000000 : Int) ≤ 150000005 ∧ (150000005 : Int) ≤ 160000000 ∧
    (solveHigh 150000005 0).pc.mult = 24 := by decide +kernel

theorem witness_QuadAbove100MHzRefused :
    100000000 < (solveQuad 100000000 (-1)).freq ∧
    (loaded 6 8 0 1).latch.args.a0 = BitVec.ofInt 32 (solveQuad 100000000 (-1)).dc.div ∧
    (loaded 6 8 0 1).latch.args.a1 = BitVec.ofInt 32 (solveQuad 100000000 (-1)).dc.num := by
  decide +kernel

/-! ### Witnesses for the encoder -/

theorem witness_DeriveResult :
    (loaded 0x24 3 0 1).latch.args.a2 ≠ 0 ∧ ¬(Kind.div = .div ∧ (loaded 0x24 3 0 1).latch.args.a0 = 4) ∧
    ¬(Kind.pll = .div ∧ (loaded 4 4 0 1).latch.args.a0 = 4) ∧
    resOf (exec (.derive .pll 7) (loaded 4 4 0 1)) = some [0, 0, 1, 0, 0x00010000, 0, 0, 0] ∧
    p1Of 3 0 1 = 0xFFFFFF80 ∧ p1Of 1757 416000 512000 = 224488 := by decide +kernel

theorem witness_DeriveResult_four :
    (loaded 0x24 4 7 0).latch.args.a0 = 4 ∧
    resOf (exec (.derive .div 0) (loaded 0x24 4 7 0)) =
      some [0, 0, 1, 3, 0x00010C00, 0, 0, 0] := by decide +kernel

/-- The zero denominator clauses: SETUP_OUTPUT at the edge 8 + 1/0 and with integer mode, DERIVE of
both kinds. -/
theorem witness_zeroDenominator :
    (loaded 6 8 1 0).latch.args.a2 = 0 ∧ (loaded 6 8 1 0).latch.args.a0 ≠ 4 ∧
    (loaded 6 8 1 0).latch.args.a0.toNat = 8 ∧ (loaded 6 8 1 0).latch.args.a1 ≠ 0 ∧
    statusOf (exec (.setupOutput 0 .a 0 false 0 0) (loaded 6 8 1 0)) = some 0x42 ∧
    statusOf (exec (.setupOutput 2 .a 0 true 0 0) (loaded 6 6 0 0)) = some 0x42 ∧
    statusOf (exec (.derive .div 0) (loaded 0x24 10 5 0)) = some 0x42 ∧
    statusOf (exec (.derive .pll 0) (loaded 4 4 0 0)) = some 0x42 := by decide +kernel

theorem witness_EncodedValueExact :
    (3#32 : Word) ≠ 0 ∧ 128 * (1#32).toNat < 2 ^ 32 ∧
    512 ≤ 128 * (10#32).toNat + 128 * (1#32).toNat / (3#32).toNat ∧
    deriveP .div 10 1 3 = .ok ⟨810, 2, 3, 0⟩ := by
  refine ⟨by decide, by decide, by decide, rfl⟩

/-- The largest divider with num = den, and the two integer dividers below 8. -/
theorem witness_DocumentedDomainFits :
    8 ≤ (1800#32).toNat ∧ (1800#32).toNat ≤ 1800 ∧ (1048575#32).toNat < 2 ^ 20 ∧
    (1048575#32 : Word) ≠ 0 ∧ (4#32).toNat = 4 ∧ (6#32).toNat = 6 ∧
    (deriveP .div 1800 1048575 1048575).toOption.map Parms.p1 = some 230016 := by decide +kernel

/-! ### Witnesses for the protocol -/

/-- The correction at both edges of its range (95 section 8). -/
theorem witness_InitLaunchesTenWrites :
    CalLegal (loaded 1 99999999 0 0).latch.args.a0 ∧
    ¬CalLegal (loaded 1 100000000 0 0).latch.args.a0 ∧
    CalLegal (loaded 1 (-99999999) 0 0).latch.args.a0 ∧
    ¬CalLegal (loaded 1 (-100000000) 0 0).latch.args.a0 := by
  refine ⟨?_, ?_, ?_, ?_⟩ <;> (unfold CalLegal; decide)

theorem witness_SetupPllWrites : (loaded 5 4 0 1).latch.args.a2 ≠ 0 ∧
    writesOf (exec (.setupPll .a) (loaded 5 4 0 1)) =
      some [(26, 0), (27, 1), (28, 0), (29, 0), (30, 0), (31, 0), (32, 0), (33, 0), (177, 0xA0)] := by
  decide +kernel

/-- The clauses of SETUP_OUTPUT at their edges: 9 without integer mode with a phase of 0x40, 8 with
it. -/
theorem witness_SetupOutputResult_writes :
    writesOf (exec (.setupOutput 1 .b 0 false 0 0x40) (loaded 0x40010016 9 0 1)) =
      some [(17, 0x2C), (50, 0x00), (51, 0x01), (52, 0x00), (53, 0x02), (54, 0x80), (55, 0x00),
            (56, 0x00), (57, 0x00), (166, 0x40)] ∧
    (stateOf (exec (.setupOutput 2 .b 0 true 0 0) (loaded 6 8 0 1))).map (fun t => t.q.length) =
      some 10 ∧
    (stateOf (exec (.setupOutput 0 .a 0 false 0 0) (loaded 6 8 1 2))).map (fun t => t.q.length) =
      some 10 := by decide +kernel

/-- The checks at their edges (95 section 6). -/
theorem witness_SetupOutputResult_checks :
    statusOf (exec (.setupOutput 3 .a 3 true 0 0) (loaded 0x31846 90 0 1000000)) = some 0x12 ∧
    statusOf (exec (.setupOutput 255 .a 0 false 0 0) (loaded 0xFF0006 6 5 0)) = some 0x12 ∧
    statusOf (exec (.setupOutput 2 .a 0 false 0 0) (loaded 0x20006 7 5 0)) = some 0x22 ∧
    statusOf (exec (.setupOutput 0 .a 0 false 0 0) (loaded 6 8 0 0)) = some 0x22 := by decide +kernel

theorem witness_ClockWrappersCompose :
    CalLegal (loaded 8 150000000 0 0).cal ∧
    resOf (exec .solve (loaded 8 150000000 0 0)) =
      some [24, 0, 1041666, 4, 0, 1, 8, 150000000] := by
  refine ⟨?_, by decide +kernel⟩
  unfold CalLegal; decide

/-- SET_OE about to probe, BUS's answers chosen. -/
def probing (probes : List Probe) (outcomes : List WriteOutcome) : State :=
  withBus probes outcomes { loaded 0x05000007 0 0 0 with seq := .issue, q := [⟨3, 0xFA⟩] }

/-- The cases of a step in ISSUE: a failed probe below the limit and at it, a ready one, an accepted
write, the end of the list and a faulted write. -/
theorem witness_WritePrimitiveStep :
    (probing [.notReady] []).q[(probing [.notReady] []).widx]? = some ⟨3, 0xFA⟩ ∧
    (probing [.notReady] []).bus.drawProbe.1 = .notReady ∧
    (stateOf (step (probing [.notReady] []))).map State.pcnt = some 1 ∧
    statusOf (step { probing [.notReady] [] with par := { defaultParams with readyLimit := 1 } }) =
      some 0x72 ∧
    (stateOf (step (probing [.ready] []))).map State.inWrite = some true ∧
    (stateOf (step writing)).map State.widx = some 1 ∧
    initEnding.q.length ≤ initEnding.widx ∧ statusOf (step initEnding) = some 0x06 ∧
    statusOf (step (withBus [] [.fault 0x2A] writing)) = some 0x62 ∧
    (stateOf (step (withBus [] [.fault 0x2A] writing))).map State.busFault = some 0x2A := by
  decide +kernel

/-- One write, and a command without writes. -/
theorem witness_CommandRunsToCompletion :
    let s := withBus [.ready] [.ok] (loaded 0x05000007 0 0 0)
    s.par.dev.wellFormed = true ∧ s.inputs = [] ∧ s.seq = .exec ∧
    decode s.latch.cmd = .ok (.setOe 5) ∧
    exec (.setOe 5) s = .next (issuing none [⟨3, 0xFA⟩] s) ∧
    (issuing none [⟨3, 0xFA⟩] s).seq = .issue ∧
    s.bus.probes = List.replicate (issuing none [⟨3, 0xFA⟩] s).q.length .ready ++ [] ∧
    s.bus.outcomes = List.replicate (issuing none [⟨3, 0xFA⟩] s).q.length .ok ++ [] ∧
    decode (loaded 0x24 4 7 0).latch.cmd = .ok (.derive .div 0) ∧
    (stateOf (exec (.derive .div 0) (loaded 0x24 4 7 0))).map State.seq = some .idle := by
  refine ⟨by decide, rfl, rfl, rfl, rfl, rfl, rfl, rfl, rfl, by decide +kernel⟩

/-- One write: 1 + 2 + 1 events in four steps; a command without writes and an illegal word: 1 + 1 in
one. -/
theorem witness_CommandTakesCountedEvents :
    (let s := withBus [.ready] [.ok] (loaded 0x05000007 0 0 0)
     s.par.dev.wellFormed = true ∧ s.inputs = [] ∧ s.seq = .exec ∧
     step s = .next (issuing none [⟨3, 0xFA⟩] s) ∧
     s.bus.probes = List.replicate (issuing none [⟨3, 0xFA⟩] s).q.length .ready ++ [] ∧
     s.bus.outcomes = List.replicate (issuing none [⟨3, 0xFA⟩] s).q.length .ok ++ [] ∧
     runEvents 4 s = [.exec, .probe, .write, .completion]) ∧
    runEvents 1 (loaded 0x24 4 7 0) = [.exec, .completion] ∧
    runEvents 1 (loaded 0x82 0 0 0) = [.exec, .completion] := by
  refine ⟨⟨by decide, rfl, rfl, rfl, rfl, rfl, by decide +kernel⟩, by decide +kernel, by decide +kernel⟩

/-- The fault on the first write, and on the second of two. -/
theorem witness_BusFaultStopsAfterAcceptedWrites :
    (let s := probing [.ready] [.fault 1]
     s.par.dev.wellFormed = true ∧ s.inputs = [] ∧ s.seq = .issue ∧ s.widx = 0 ∧ s.pcnt = 0 ∧
     s.inWrite = false ∧ 0 < s.q.length ∧ s.bus.probes = List.replicate (0 + 1) .ready ++ [] ∧
     s.bus.outcomes = List.replicate 0 .ok ++ .fault 1 :: []) ∧
    (let s := { probing [.ready, .ready] [.ok, .fault 0x2A] with q := [⟨3, 0xFF⟩, ⟨16, 0x80⟩] }
     s.par.dev.wellFormed = true ∧ s.inputs = [] ∧ s.seq = .issue ∧ s.widx = 0 ∧ s.pcnt = 0 ∧
     s.inWrite = false ∧ 1 < s.q.length ∧ s.bus.probes = List.replicate (1 + 1) .ready ++ [] ∧
     s.bus.outcomes = List.replicate 1 .ok ++ .fault 0x2A :: []) := by
  decide

/-- 95 P5 (b): two failed probes are below the limit, three reach it. -/
theorem witness_BoundedReadyWait :
    let s := { probing [.notReady, .notReady, .notReady] [] with
      par := { defaultParams with readyLimit := 3 } }
    s.par.dev.wellFormed = true ∧ s.inputs = [] ∧ s.seq = .issue ∧ s.widx < s.q.length ∧
    s.pcnt = 0 ∧ s.inWrite = false ∧ 0 < s.par.readyLimit ∧ 2 < s.par.readyLimit ∧
    s.bus.probes = List.replicate 2 .notReady ++ [.notReady] ∧ 3 = s.par.readyLimit ∧
    s.bus.probes = List.replicate 3 .notReady ++ [] := by
  decide

theorem witness_UnboundedReadyWait :
    let s := probing [.notReady] []
    s.par.readyLimit = 0 ∧ s.widx < s.q.length ∧ s.inWrite = false ∧ s.seq = .issue ∧
    s.inputs = [] ∧ s.par.dev.wellFormed = true ∧
    s.bus.probes = List.replicate 1 .notReady ++ [] := by
  decide

end Sys2Proof.Tests
end

section
/-! The host's reads and writes of the sixteen registers (10_state.md R31, R33, R42, R43): what
`step` answers to a host event, what `hostWrite` and `hostRead` do at each offset, and the
obligations on them. -/

namespace Sys2Proof.Machine

/-! ### The host's turn -/

/-- A step in the host's turn answers what `schedule` says the host's event does (log 2). -/
theorem step_host {s : State} {o : Host.Outcome State Fault Refusal}
    (hw : s.par.dev.wellFormed = true) (h : schedule s = .host o) : step s = o := by
  simp [step, hw, h]

theorem step_write {s : State} {off : BitVec 4} {v : Word} {rest : List HostEvent}
    (hw : s.par.dev.wellFormed = true) (hi : s.inputs = .write off v :: rest) :
    step s = .next (hostWrite off v { s with inputs := rest }) :=
  step_host hw (by simp only [schedule, hi])

theorem step_read {s : State} {off : BitVec 4} {rest : List HostEvent}
    (hw : s.par.dev.wellFormed = true) (hi : s.inputs = .read off :: rest) :
    step s = .next (readStep off { s with inputs := rest }) :=
  step_host hw (by simp only [schedule, hi])

/-! ### Registers by offset (R30) -/

section
variable (v : Word) (s : State)

theorem hostWrite_cmd : hostWrite 0x0 v s = writeCmd v s := rfl

theorem hostWrite_status :
    hostWrite 0x1 v s = { s with status := s.status.write v } := rfl

theorem hostWrite_arg0 : hostWrite 0x4 v s = { s with args := { s.args with a0 := v } } := rfl

theorem hostWrite_arg1 : hostWrite 0x5 v s = { s with args := { s.args with a1 := v } } := rfl

theorem hostWrite_arg2 : hostWrite 0x6 v s = { s with args := { s.args with a2 := v } } := rfl

/-- Past STATUS, every register but ARG0 to ARG2 ignores a write (R43). -/
theorem hostWrite_readOnly {off : BitVec 4} (h : 2 ≤ off.toNat) (h0 : off ≠ 0x4) (h1 : off ≠ 0x5)
    (h2 : off ≠ 0x6) : hostWrite off v s = s := by
  unfold hostWrite
  split
  case h_6 => rfl
  all_goals bv_omega

/-- The host registers in the order of their offsets, offset 0x7 reading 0 (R30, R31). -/
def hostRegisters : List Word :=
  [s.cmd, s.status.toWord, s.cal, s.busFault, s.args.a0, s.args.a1, s.args.a2, 0,
   s.res.r0, s.res.r1, s.res.r2, s.res.r3, s.res.r4, s.res.r5, s.res.r6, s.res.r7]

theorem hostRegisters_getElem? (off : BitVec 4) :
    (hostRegisters s)[off.toNat]? = some (hostRead off s) := by
  obtain ⟨k, hk⟩ := off
  interval_cases k <;> rfl

end

/-- A STATUS write clears OVR by v[3] and keeps the other flags (R33). -/
theorem status_write_eq (st : Status) (v : Word) :
    st.write v = { st with ovr := if v.getLsbD 3 then false else st.ovr } := by
  unfold Status.write
  cases v.getLsbD 3 <;> simp

/-! ### The obligations -/

/-- Settles O17: in a state with BUSY = 1 the CMD write is the overrun. -/
theorem cmdWriteWhileBusyIsLost : Obligations.CmdWriteWhileBusyIsLost := by
  intro s v rest hw hi hb
  rw [step_write hw hi, hostWrite_cmd, writeCmd_busy (s := { s with inputs := rest }) hb]
  rfl

/-- Settles O18. -/
theorem statusWriteClearsOvr : Obligations.StatusWriteClearsOvr := by
  intro s v rest hw hi
  rw [step_write hw hi, hostWrite_status, status_write_eq]

/-- Settles O19, by the offset: each of the three ARG registers, and the read-only rest. -/
theorem argAndReadOnlyWrites : Obligations.ArgAndReadOnlyWrites := by
  intro s off v rest hw hi h
  rw [step_write hw hi]
  by_cases h0 : off = 0x4
  · subst h0; rw [hostWrite_arg0]; rfl
  by_cases h1 : off = 0x5
  · subst h1; rw [hostWrite_arg1]; rfl
  by_cases h2 : off = 0x6
  · subst h2; rw [hostWrite_arg2]; rfl
  · rw [hostWrite_readOnly _ _ h h0 h1 h2]
    simp only [h0, h1, h2, if_false]

/-- Settles O20: the value read is the one `hostRegisters` holds at the offset, and a host's event
list is no register. -/
theorem hostReadsRegisters : Obligations.HostReadsRegisters := by
  intro s off rest hw hi
  exact ⟨hostRead off s, hostRegisters_getElem? s off, step_read hw hi⟩

end Sys2Proof.Machine
end

section
/-! Addresses: the host's byte addresses of the sixteen registers (20_memory.md R70), the device
addresses of a parameter block (41_encoder.md R197), the refusal of a DEVMAP whose block would wrap
(20_memory.md R72), and the obligations on them. -/

namespace Sys2Proof.Machine

/-! ### Platform accesses (R70) -/

/-- The converse of `hostOffset_ok`: the register at offset k answers at HOST_BASE + 4k. -/
theorem hostOffset_hostBase_add (p : Params) (off : BitVec 4) :
    hostOffset p (64 * p.hostPage + 4 * off.toNat) 4 = .ok off := by
  have hoff := off.isLt
  have aligned : ¬((64 * p.hostPage + 4 * off.toNat) % 4 ≠ 0 ∨ 4 ≠ 4) := by omega
  have inside : 64 * p.hostPage ≤ 64 * p.hostPage + 4 * off.toNat ∧
      64 * p.hostPage + 4 * off.toNat < 64 * p.hostPage + 64 := by omega
  have word : (64 * p.hostPage + 4 * off.toNat - 64 * p.hostPage) / 4 = off.toNat := by omega
  rw [hostOffset, if_neg aligned, if_pos inside, word, BitVec.ofNat_toNat, BitVec.setWidth_eq]

theorem hostOffset_notAdmitted {addr size : Nat} (h : addr % 4 ≠ 0 ∨ size ≠ 4) (p : Params) :
    hostOffset p addr size = .error .hostAccessNotAdmitted := by
  rw [hostOffset, if_pos h]

section
variable {s : State} {addr size : Nat} {off : BitVec 4} (v : Word) (rest : List HostEvent)

/-- A platform read that names a register is the word read at its offset. -/
theorem step_busRead_ok (ho : hostOffset s.par addr size = .ok off) :
    step { s with inputs := .busRead addr size :: rest } =
      step { s with inputs := .read off :: rest } := by
  simp only [step, schedule, ho]

/-- A platform write that names a register is the word write at its offset. -/
theorem step_busWrite_ok (ho : hostOffset s.par addr size = .ok off) :
    step { s with inputs := .busWrite addr size v :: rest } =
      step { s with inputs := .write off v :: rest } := by
  simp only [step, schedule, ho]

variable {f : Fault} (hw : s.par.dev.wellFormed = true)
include hw

/-- A platform read that names no register stops the machine. -/
theorem step_busRead_error (ho : hostOffset s.par addr size = .error f) :
    step { s with inputs := .busRead addr size :: rest } = .fault f :=
  step_host hw (by simp only [schedule, ho])

/-- A platform write that names no register stops the machine. -/
theorem step_busWrite_error (ho : hostOffset s.par addr size = .error f) :
    step { s with inputs := .busWrite addr size v :: rest } = .fault f :=
  step_host hw (by simp only [schedule, ho])

end

/-! ### Parameter blocks (R72, R197) -/

/-- The address of byte `k` of a parameter block does not wrap (R197). -/
theorem base_add_toNat {base k : Byte} (hb : base.toNat ≤ 0xF8) (hk : k.toNat ≤ 7) :
    (base + k).toNat = base.toNat + k.toNat :=
  BitVec.toNat_add_of_lt (by omega)

theorem basesFit_iff (d : DevMap) :
    basesFit d = true ↔ d.pllBaseA.toNat ≤ 0xF8 ∧ d.pllBaseB.toNat ≤ 0xF8 ∧
      d.msBase0.toNat ≤ 0xF8 ∧ d.msBase1.toNat ≤ 0xF8 ∧ d.msBase2.toNat ≤ 0xF8 := by
  simp [basesFit]

theorem basesFit_of_wellFormed {d : DevMap} (h : d.wellFormed = true) : basesFit d = true :=
  (Bool.and_eq_true_iff.mp h).1

/-- Whatever the host or CORE would do next, nothing runs on an ill-formed DEVMAP (R72). -/
theorem step_illFormed {s : State} (h : s.par.dev.wellFormed ≠ true) :
    step s = .refused .illFormedDevMap := if_neg h

/-! ### The obligations -/

/-- Settles O22: HOST_BASE + 4k names offset k, so both accesses are the same step; an access that
is narrow or misaligned names no register. -/
theorem platformAccesses : Obligations.PlatformAccesses := by
  intro s rest hw
  refine ⟨fun off v => ?_, fun addr size v h => ?_⟩
  · have names := hostOffset_hostBase_add s.par off
    exact ⟨step_busRead_ok rest names, step_busWrite_ok v rest names⟩
  · have stuck := hostOffset_notAdmitted h s.par
    exact ⟨step_busRead_error rest hw stuck, step_busWrite_error v rest hw stuck⟩

/-- Settles O23: no address of the block wraps, and a base above 0xF8 contradicts `basesFit`, so
the DEVMAP is ill-formed. -/
theorem bulkBlockFitsOrRefused : Obligations.BulkBlockFitsOrRefused := by
  refine ⟨fun base b hb => ?_, fun s h => step_illFormed fun hw => ?_⟩
  · simp [writeBulk, base_add_toNat hb]
  · have fit := (basesFit_iff _).mp (basesFit_of_wellFormed hw)
    omega

end Sys2Proof.Machine
end

section
/-! Decoding (30_encoding.md R103): the two reasons for which `decode` refuses a word, and the
obligation on the table. -/

namespace Sys2Proof.Machine

section
variable {w : Word}

theorem decode_reservedBit (h : w.getLsbD 7 ∨ w.extractLsb' 13 3 ≠ 0#3) :
    decode w = .error .reservedBit := if_pos h

theorem decode_reservedOpcode (hclear : ¬(w.getLsbD 7 ∨ w.extractLsb' 13 3 ≠ 0#3))
    (hop : (opField w).toNat = 0 ∨ 10 ≤ (opField w).toNat) :
    decode w = .error .reservedOpcode := by
  rw [decode, if_neg hclear]
  split
  case h_10 => rfl
  all_goals omega

end

/-- Settles O3, row by row of the table: once the reserved bits are clear, `decode` is its match on
the opcode, and a row of the table fixes the opcode. -/
theorem decodeFollowsTable : Obligations.DecodeFollowsTable := by
  intro w op hop
  subst hop
  refine ⟨fun h => ⟨_, decode_reservedBit h⟩, fun h7 h13 => ?_⟩
  have hclear : ¬(w.getLsbD 7 ∨ w.extractLsb' 13 3 ≠ 0#3) :=
    not_or.mpr ⟨ne_true_of_eq_false h7, not_not.mpr h13⟩
  refine ⟨?init, ?solve, ?solveIq, ?derive, ?setupPll, ?setupOutput, ?setOe, ?setupClk0,
    ?setupClk2, fun h => ⟨_, decode_reservedOpcode hclear h⟩⟩
  all_goals
    intro h
    rw [decode, if_neg hclear, opField, h]
    rfl

end Sys2Proof.Machine
end

section
/-! The register-protocol commands (42_protocol.md): the write list of SET_OE, and the obligation on
it. -/

namespace Sys2Proof.Machine

/-- The complement of a byte as a number: 255 less the byte. -/
theorem byte_not_eq_ofNat (b : Byte) : ~~~b = BitVec.ofNat 8 (255 - b.toNat) := by
  bv_omega

/-- SET_OE has no check that can fail and one write, so its EXEC step starts issuing it (R44, R270). -/
theorem exec_setOe (mask : Byte) (s : State) :
    exec (.setOe mask) s = .next (issuing none [⟨s.par.dev.oeReg, ~~~mask⟩] s) := by
  rw [exec_eq_execPlan, planOf, execPlan_ok, launch_issuing (List.cons_ne_nil _ _)]

/-- Settles O43: the byte written is the complement of the mask, 255 − mask as a number. -/
theorem setOeWritesComplement : Obligations.SetOeWritesComplement := by
  intro mask s
  rw [exec_setOe, byte_not_eq_ofNat]

end Sys2Proof.Machine
end

section
/-! The block after reset (70_reset_and_hazards.md): the cleared STATUS word, and the obligation on
the power-on state. -/

namespace Sys2Proof.Machine

/-- STATUS with every flag clear and no error reads as 0 (R32, R300). -/
theorem status_clear_toWord : (⟨false, false, false, false, .noError⟩ : Status).toWord = 0 := by
  decide

/-- Settles O12, field by field: the reset state is the power-on state of the default profile, and
the table's row for STATUS is the cleared STATUS word. -/
theorem resetValues : Obligations.ResetValues := by
  refine ⟨⟨defaultParams, rfl⟩, fun p => ?_⟩
  have hstatus : (State.powerOn p).status.toWord = 0 := by
    rw [powerOn_status, status_clear_toWord]
  exact ⟨powerOn_cmd p, hstatus, powerOn_cal p, powerOn_busFault p, powerOn_args p, powerOn_res p,
    powerOn_latch p, powerOn_seq p, powerOn_q p, powerOn_widx p, powerOn_pcnt p, powerOn_pend p,
    powerOn_log p, powerOn_par p⟩

end Sys2Proof.Machine
end

section
/-! The command word both ways (30_encoding.md R100 to R110): a word decodes to a command exactly
when the bits the command reads are those of its encoding, and the obligations on `encode` and
`decode`. -/

namespace Sys2Proof.Machine

/-- A concatenation as a number: the parts do not overlap, so they add up. -/
theorem append_toNat {m n : Nat} (x : BitVec m) (y : BitVec n) :
    (x ++ y).toNat = x.toNat * 2 ^ n + y.toNat := by
  rw [BitVec.toNat_append, ← Nat.shiftLeft_add_eq_or_of_lt y.isLt, Nat.shiftLeft_eq]

/-! ### Decoding a CMD32 word -/

section
variable (imm8 chan : Byte) (drive : BitVec 2) (rsel : BitVec 3) (aim kind pll : Bool)
  (op : BitVec 4)

/-- The check on the reserved bits lets every CMD32 word pass (R103). -/
theorem cmd32_notReserved :
    ¬((cmd32 imm8 chan drive rsel aim kind pll op).getLsbD 7 ∨
      (cmd32 imm8 chan drive rsel aim kind pll op).extractLsb' 13 3 ≠ 0#3) := by
  obtain ⟨h7, h13⟩ := cmd32_reserved imm8 chan drive rsel aim kind pll op
  exact not_or.mpr ⟨ne_true_of_eq_false h7, not_not.mpr h13⟩

/-- A CMD32 word as a number, field by field (R100). -/
theorem cmd32_toNat :
    (cmd32 imm8 chan drive rsel aim kind pll op).toNat =
      imm8.toNat * 2 ^ 24 + chan.toNat * 2 ^ 16 + drive.toNat * 2 ^ 11 + rsel.toNat * 2 ^ 8 +
        aim.toNat * 2 ^ 6 + kind.toNat * 2 ^ 5 + pll.toNat * 2 ^ 4 + op.toNat := by
  simp only [cmd32, append_toNat, BitVec.toNat_ofBool, BitVec.toNat_ofNat]
  omega

end

/-- A command's word passes the reserved bits, and its opcode and fields are read back one by one.
-/
theorem decode_encode (i : Instr) : decode (encode i) = .ok i := by
  cases i <;>
    rw [encode, decode, if_neg (cmd32_notReserved _ _ _ _ _ _ _ _)] <;> simp

/-! ### The bits a command reads -/

/-- The bits of a word in chosen parts of its fields, where its reserved bits are clear. -/
theorem cmd32_fields_and {w : Word} (h7 : w.getLsbD 7 = false) (h13 : w.extractLsb' 13 3 = 0#3)
    (imm8 chan : Byte) (drive : BitVec 2) (rsel : BitVec 3) (aim kind pll : Bool) :
    cmd32 (imm8Field w &&& imm8) (chanField w &&& chan) (driveField w &&& drive)
        (rselField w &&& rsel) (aimField w && aim) (w.getLsbD 5 && kind) (w.getLsbD 4 && pll)
        (opField w) =
      w &&& (cmd32 imm8 chan drive rsel aim kind pll 0xF ||| 0xE080) := by
  have reserved (j : Nat) (hj : j < 3) : w.getLsbD (13 + j) = false := by
    have := congrArg (·.getLsbD j) h13
    simpa [hj] using this
  have h13 := reserved 0 (by omega)
  have h14 := reserved 1 (by omega)
  have h15 := reserved 2 (by omega)
  apply BitVec.eq_of_getLsbD_eq
  intro k hk
  rw [BitVec.getLsbD_and, BitVec.getLsbD_or, cmd32_getLsbD _ _ _ _ _ _ _ _ hk,
    cmd32_getLsbD _ _ _ _ _ _ _ _ hk]
  interval_cases k <;>
    simp_all [imm8Field, chanField, driveField, rselField, aimField, opField]

@[simp] theorem pllBit_pllOfBit (b : Bool) : pllBit (pllOfBit b) = b := by cases b <;> rfl

@[simp] theorem kindBit_kindOfBit (b : Bool) : kindBit (kindOfBit b) = b := by cases b <;> rfl

/-- Encoding a decoded word keeps the bits its command reads: the reserved bits are 0 and each field
is where `encode` puts it. -/
theorem encode_of_decode {w : Word} {i : Instr} (h : decode w = .ok i) :
    encode i = w &&& readMask i := by
  unfold decode at h
  split at h
  · cases h
  · rename_i hclear
    obtain ⟨h7, h13⟩ : w.getLsbD 7 = false ∧ w.extractLsb' 13 3 = 0#3 := by
      simpa [not_or] using hclear
    have fields := cmd32_fields_and h7 h13
    have op (n : Nat) (hn : (opField w).toNat = n) : opField w = BitVec.ofNat 4 n := by
      rw [← hn, BitVec.ofNat_toNat, BitVec.setWidth_eq]
    split at h <;> cases h <;> rename_i hop <;> have hop := op _ hop
    · refine Eq.trans ?_ (fields 0 0 0 0 false false false)
      simp [encode, hop, -BitVec.reduceAllOnes]
    · refine Eq.trans ?_ (fields 0 0 0 0 false false false)
      simp [encode, hop, -BitVec.reduceAllOnes]
    · refine Eq.trans ?_ (fields 0 0 0 0 false false false)
      simp [encode, hop, -BitVec.reduceAllOnes]
    · refine Eq.trans ?_ (fields 0 0 0 (BitVec.allOnes 3) false true false)
      simp [encode, hop, kindField, -BitVec.reduceAllOnes]
    · refine Eq.trans ?_ (fields 0 0 0 0 false false true)
      simp [encode, hop, pllField, -BitVec.reduceAllOnes]
    · refine Eq.trans ?_ (fields (BitVec.allOnes 8) (BitVec.allOnes 8) (BitVec.allOnes 2)
        (BitVec.allOnes 3) true false true)
      simp [encode, hop, pllField, -BitVec.reduceAllOnes]
    · refine Eq.trans ?_ (fields (BitVec.allOnes 8) 0 0 0 false false false)
      simp [encode, hop, -BitVec.reduceAllOnes]
    · refine Eq.trans ?_ (fields 0 0 (BitVec.allOnes 2) 0 false false false)
      simp [encode, hop, -BitVec.reduceAllOnes]
    · refine Eq.trans ?_ (fields 0 0 (BitVec.allOnes 2) 0 false false false)
      simp [encode, hop, -BitVec.reduceAllOnes]

/-- A word that is an opcode 0x1 to 0x9 under the mask decodes to a command of that opcode (R105).
-/
theorem decode_of_select {w : Word} {o : BitVec 4} (h1 : 1 ≤ o.toNat) (h9 : o.toNat ≤ 9)
    (h : w &&& selectMask = o.setWidth 32) : ∃ i, decode w = .ok i ∧ opcode i = o := by
  have slice (lo len : Nat) : w.extractLsb' lo len &&& selectMask.extractLsb' lo len =
      (o.setWidth 32).extractLsb' lo len := by
    rw [← BitVec.extractLsb'_and, h]
  have h7 : w.getLsbD 7 = false := by
    have bit := congrArg (·.getLsbD 7) h
    simpa [selectMask] using bit
  have h13 : w.extractLsb' 13 3 = 0#3 := by
    have mask : selectMask.extractLsb' 13 3 = BitVec.allOnes 3 := by decide
    have high : (o.setWidth 32).extractLsb' 13 3 = 0#3 := by
      clear * -; revert o; decide
    rw [← BitVec.and_allOnes (x := w.extractLsb' 13 3), ← mask, slice, high]
  have hop : opField w = o := by
    have mask : selectMask.extractLsb' 0 4 = BitVec.allOnes 4 := by decide
    have low : (o.setWidth 32).extractLsb' 0 4 = o := by
      clear * -; revert o; decide
    rw [opField, ← BitVec.and_allOnes (x := w.extractLsb' 0 4), ← mask, slice, low]
  rw [decode, if_neg (not_or.mpr ⟨ne_true_of_eq_false h7, not_not.mpr h13⟩), hop]
  interval_cases hn : o.toNat
  all_goals exact ⟨_, rfl, by simp only [opcode]; bv_omega⟩

/-! ### Which words decode to a command -/

/-- What is left of a command's word under the select mask is its opcode (R105). -/
theorem encode_select (i : Instr) : encode i &&& selectMask = (opcode i).setWidth 32 := by
  cases i <;> exact Laws.cmd32_select ..

theorem opcode_range (i : Instr) : 1 ≤ (opcode i).toNat ∧ (opcode i).toNat ≤ 9 := by
  cases i <;> simp [opcode]

/-- Every command reads OP and the reserved bits. -/
theorem readMask_select (i : Instr) : readMask i &&& selectMask = selectMask := by
  cases i <;> simp only [readMask] <;> decide

/-- Which bits a command reads is a matter of its opcode. -/
theorem readMask_of_opcode {i j : Instr} (h : opcode i = opcode j) : readMask i = readMask j := by
  cases i <;> cases j <;> simp_all [opcode, readMask]

/-- A word whose read bits are those of a command's encoding is, under the mask, that command's
opcode. -/
theorem select_of_read {w : Word} {i : Instr} (h : w &&& readMask i = encode i) :
    w &&& selectMask = (opcode i).setWidth 32 := by
  rw [← readMask_select i, ← BitVec.and_assoc, h, encode_select]

/-- A word decodes to a command exactly when the bits the command reads are those of its encoding.
Back: the mask gives a command of the same opcode, so with the same bits read and the same
encoding. -/
theorem decode_eq_ok_iff {w : Word} {i : Instr} :
    decode w = .ok i ↔ w &&& readMask i = encode i := by
  refine ⟨fun h => (encode_of_decode h).symm, fun h => ?_⟩
  obtain ⟨h1, h9⟩ := opcode_range i
  obtain ⟨j, hj, hop⟩ := decode_of_select h1 h9 (select_of_read h)
  have same : encode j = encode i := by
    rw [encode_of_decode hj, readMask_of_opcode hop, h]
  have := decode_encode j
  rw [same, decode_encode] at this
  rw [hj, this]

/-! ### The obligations -/

/-- Settles O1. -/
theorem decodeEncodeRoundTrip : Obligations.DecodeEncodeRoundTrip := decode_encode

/-- Settles O2. -/
theorem encodeDecodedWord : Obligations.EncodeDecodedWord := fun _ _ h => encode_of_decode h

/-- Settles O4: both words have the read bits of the command's encoding. -/
theorem unreadFieldsIgnored : Obligations.UnreadFieldsIgnored := by
  intro w w' i h hagree
  rw [decode_eq_ok_iff] at h ⊢
  rw [hagree, h]

/-- Settles O5: the read bits of a word include those under the mask, and the mask leaves an opcode
0x1 to 0x9 only where `decode` reaches that row of its table. -/
theorem maskSelectsCommand : Obligations.MaskSelectsCommand := by
  intro w
  have select {i : Instr} (h : decode w = .ok i) : w &&& 0x0000E08F#32 = (opcode i).setWidth 32 :=
    select_of_read (decode_eq_ok_iff.mp h)
  refine ⟨fun o h1 h9 => ⟨?_, decode_of_select h1 h9⟩, ?_, ?_⟩
  · rintro ⟨i, h, rfl⟩
    exact select h
  · rintro ⟨r, hr⟩ ⟨o, h1, h9, ho⟩
    obtain ⟨i, hi, -⟩ := decode_of_select h1 h9 ho
    cases hr.symm.trans hi
  · intro hnone
    cases h : decode w with
    | error r => exact ⟨r, rfl⟩
    | ok i => exact absurd ⟨opcode i, (opcode_range i).1, (opcode_range i).2, select h⟩ hnone

/-- Settles O6: each of these words is its CMD32 fields as a number. -/
theorem commandWordLayout : Obligations.CommandWordLayout := by
  refine ⟨fun chan pll drive aim rsel phase => ?_, fun rsel => ?_, fun mask => ?_,
    fun drive => ⟨?_, ?_⟩⟩ <;> rw [encode, cmd32_toNat] <;> simp [kindBit]
  omega

/-- Settles O7: each word is small enough to evaluate. -/
theorem sampleWordsDecode : Obligations.SampleWordsDecode := by
  unfold Obligations.SampleWordsDecode
  decide

end Sys2Proof.Machine
end

section
/-! The invariant of the reachable states (10_state.md, 60_exceptions.md R306, 42_protocol.md R230):
each operation on the state keeps it, so every step does, and with it the parameters. -/

namespace Sys2Proof.Machine

/-! ### What the operations keep -/

section
variable {s : State}

theorem calLegal_zero : CalLegal 0 := ⟨by decide, by decide⟩

theorem StateInv.powerOn (p : Params) : StateInv (State.powerOn p) where
  busy_iff := by simp
  busy_excludes_done := by simp
  err_needs_done := by simp
  code_needs_fault := by simp
  code_is_byte := by simp
  latch_cmd := rfl
  at_rest := by simp
  issuing := by simp
  in_write := by simp
  issued_in_order := by simp
  probes_bounded := fun h => h
  cal_legal := calLegal_zero
  pend_cal_legal := by simp
  pend_is_init := by simp
  log_accepted := by simp

/-- No clause is about the host's list or what it has read. -/
theorem StateInv.hostSide (h : StateInv s) (l : List HostEvent) (r : Word) :
    StateInv { s with inputs := l, rdata := r } := { h with }

theorem StateInv.args (h : StateInv s) (a : Args) : StateInv { s with args := a } := { h with }

/-- OVR is in no clause. -/
theorem StateInv.ovr (h : StateInv s) (b : Bool) :
    StateInv { s with status := { s.status with ovr := b } } := { h with }

/-- While a command runs there is no bus fault on record (R35, R350). -/
theorem StateInv.busFault_eq_zero (h : StateInv s) (hs : s.seq ≠ .idle) : s.busFault = 0 := by
  by_contra hf
  have herr := h.code_needs_fault hf
  have hdone := h.err_needs_done (by simp [herr])
  exact h.busy_excludes_done ⟨h.busy_iff.mpr hs, hdone⟩

/-- Acceptance writes BUSY, DONE, ERR, BUSFAULT and L together and empties the sequencer (R41). -/
theorem StateInv.accept (h : StateInv s) (v : Word) : StateInv (accept v s) where
  busy_iff := by simp
  busy_excludes_done := by simp
  err_needs_done := by simp
  code_needs_fault := by simp
  code_is_byte := by simp
  latch_cmd := rfl
  at_rest := by simp
  issuing := by simp
  in_write := by simp
  issued_in_order := by simp
  probes_bounded := fun h => h
  cal_legal := h.cal_legal
  pend_cal_legal := by simp
  pend_is_init := by simp
  log_accepted := h.log_accepted

/-- A state at the end of a command: the flags and the sequencer are the completion's own, so only
what the completion does not write, or commits, has to be known. -/
theorem StateInv.ofEnded {t : State} (hbusy : t.status.busy = false) (hdone : t.status.done = true)
    (hcode : t.busFault ≠ 0 → t.status.err = .busFault) (hbyte : t.busFault.toNat < 256)
    (hlatch : t.latch.cmd = t.cmd) (hseq : t.seq = .idle)
    (hrest : t.q = [] ∧ t.widx = 0 ∧ t.pcnt = 0 ∧ t.pend = none ∧ t.inWrite = false)
    (hcal : CalLegal t.cal) (hlog : t.log <:+ acceptedWrites t.bus.trace) : StateInv t where
  busy_iff := by simp [hbusy, hseq]
  busy_excludes_done := by simp [hbusy]
  err_needs_done := fun _ => hdone
  code_needs_fault := hcode
  code_is_byte := hbyte
  latch_cmd := hlatch
  at_rest := fun _ => hrest
  issuing := by simp [hseq]
  in_write := by simp [hrest]
  issued_in_order := by simp [hrest]
  probes_bounded := by simp [hrest]
  cal_legal := hcal
  pend_cal_legal := by simp [hrest]
  pend_is_init := by simp [hrest]
  log_accepted := hlog

/-- An EXEC step that ends its command keeps CAL, and no fault is on record. -/
theorem StateInv.endedWith (h : StateInv s) (hs : s.seq ≠ .idle) (e : ErrCode) (r : Results) :
    StateInv (endedWith e r s.cal s) :=
  .ofEnded rfl rfl (fun hf => absurd (h.busFault_eq_zero hs) hf) h.code_is_byte h.latch_cmd rfl
    ⟨rfl, rfl, rfl, rfl, rfl⟩ h.cal_legal h.log_accepted

/-- An EXEC step that starts to issue: nothing is issued yet, and only INIT's plan holds a
correction. -/
theorem StateInv.launches (h : StateInv s) (hs : s.seq = .exec) {i : Instr} {p : Plan}
    (hd : decode s.latch.cmd = .ok i) (hp : planOf i s = .ok p) (hw : p.writes ≠ []) :
    StateInv (Machine.issuing p.pend p.writes s) where
  busy_iff := by simp [Machine.issuing, h.busy_iff, hs]
  busy_excludes_done := h.busy_excludes_done
  err_needs_done := h.err_needs_done
  code_needs_fault := h.code_needs_fault
  code_is_byte := h.code_is_byte
  latch_cmd := h.latch_cmd
  at_rest := fun hseq => absurd rfl hseq
  issuing := fun _ => ⟨hw, Nat.zero_le _⟩
  in_write := by simp [Machine.issuing]
  issued_in_order := List.nil_suffix
  probes_bounded := fun hl => hl
  cal_legal := h.cal_legal
  pend_cal_legal := fun k hk => (planOf_pend hp hk).2
  pend_is_init := fun k hk hinit => by rw [← (planOf_pend hp hk).1 hinit]; exact hd
  log_accepted := h.log_accepted

/-- A completion in ISSUE commits a correction that was legal while it waited (R241, R306). -/
theorem StateInv.complete (h : StateInv s) {e : ErrCode} {u : State}
    (hfault : u.busFault = 0 ∨ e = .busFault ∧ u.busFault.toNat < 256)
    (hlatch : u.latch = s.latch) (hcmd : u.cmd = s.cmd) (hcal : u.cal = s.cal)
    (hpend : u.pend = s.pend) (hlog : u.log <:+ acceptedWrites u.bus.trace) :
    StateInv (complete e u) := by
  have hlegal : CalLegal (committedCal e u) := by
    rcases committedCal_cases e u with hc | ⟨p, hp, hc, -⟩
    · rw [hc, hcal]; exact h.cal_legal
    · exact h.pend_cal_legal p (hpend ▸ hp) _ hc
  refine .ofEnded rfl rfl (fun hf => ?_) ?_ ?_ rfl ⟨rfl, rfl, rfl, rfl, rfl⟩ hlegal hlog
  · exact (hfault.resolve_left hf).1
  · rcases hfault with hf | ⟨-, hf⟩
    · simp [hf]
    · exact hf
  · simp [hlatch, hcmd, h.latch_cmd]

/-! ### The steps of CORE and BUS -/

/-- BUS's record of an accepted write holds it at the end. -/
theorem acceptedWrites_busAfterWrite_ok {w : Write} (hok : s.bus.drawOutcome.1 = .ok) :
    acceptedWrites (busAfterWrite w s).trace = acceptedWrites s.bus.trace ++ [w] := by
  simp [busAfterWrite, hok, acceptedWrites]

theorem acceptedWrites_busAfterWrite_fault {w : Write} {c : Byte}
    (hc : s.bus.drawOutcome.1 = .fault c) :
    acceptedWrites (busAfterWrite w s).trace = acceptedWrites s.bus.trace := by
  simp [busAfterWrite, hc, acceptedWrites]

theorem acceptedWrites_busAfterProbe :
    acceptedWrites (busAfterProbe s).trace = acceptedWrites s.bus.trace := by
  simp [busAfterProbe, acceptedWrites]

/-- An accepted write is the next of Q and the last of the log (R45, R81). -/
theorem StateInv.writeStep (h : StateInv s) (hs : s.seq = .issue) {w : Write}
    (hq : s.q[s.widx]? = some w) : StateInv (writeStep w s) := by
  have hidle : s.seq ≠ .idle := by simp [hs]
  have hlt : s.widx < s.q.length := (List.getElem?_eq_some_iff.mp hq).1
  have hne : s.q ≠ [] := (h.issuing hs).1
  rcases writeStep_cases w s with ⟨hok, e⟩ | ⟨c, hc, e⟩ <;> rw [e]
  · exact { h with
      at_rest := fun hseq => absurd hs hseq
      issuing := fun _ => ⟨hne, hlt⟩
      in_write := by simp
      issued_in_order := by
        have htake : s.q.take (s.widx + 1) = s.q.take s.widx ++ [w] := by
          rw [List.take_add_one, hq]; rfl
        rw [htake]
        exact List.suffix_append_self_iff.mpr h.issued_in_order
      probes_bounded := fun hl => hl
      log_accepted := by
        rw [acceptedWrites_busAfterWrite_ok hok]
        exact List.suffix_append_self_iff.mpr h.log_accepted }
  · refine h.complete (.inr ⟨rfl, ?_⟩) rfl rfl rfl rfl ?_
    · have := c.isLt
      simp only [zext32, BitVec.toNat_setWidth]
      omega
    · exact (acceptedWrites_busAfterWrite_fault hc).symm ▸ h.log_accepted

/-- A probe counts below READY_LIMIT, or lets the write at WIDX go (R230). -/
theorem StateInv.probeStep (h : StateInv s) (hs : s.seq = .issue) {w : Write}
    (hq : s.q[s.widx]? = some w) : StateInv (probeStep s) := by
  have hidle : s.seq ≠ .idle := by simp [hs]
  have hlt : s.widx < s.q.length := (List.getElem?_eq_some_iff.mp hq).1
  have hlog : s.log <:+ acceptedWrites (busAfterProbe s).trace :=
    acceptedWrites_busAfterProbe.symm ▸ h.log_accepted
  rcases probeStep_cases s with ⟨-, e⟩ | ⟨-, hl, e⟩ | ⟨-, -, -, e⟩ <;> rw [e]
  · exact { h with
      at_rest := fun hseq => absurd hs hseq
      in_write := fun _ => hlt
      log_accepted := hlog }
  · exact { h with
      at_rest := fun hseq => absurd hs hseq
      probes_bounded := hl
      log_accepted := hlog }
  · exact h.complete (.inl (h.busFault_eq_zero hidle)) rfl rfl rfl rfl hlog

theorem StateInv.coreStep (h : StateInv s) {t : State} (hstep : coreStep s = .next t) :
    StateInv t := by
  obtain ⟨-, rfl⟩ | ⟨i, hs, hd, hx⟩ | ⟨r, hs, -, rfl⟩ | ⟨hs, rfl⟩ := coreStep_cases hstep
  · exact h
  · have hidle : s.seq ≠ .idle := by simp [hs]
    rcases exec_outcome i s with ⟨e, -, -, hx'⟩ | ⟨r, -, -, hx'⟩ | ⟨p, hp, hw, hx'⟩ <;>
      cases hx'.symm.trans hx
    · exact h.endedWith hidle e s.res
    · exact h.endedWith hidle .noError r
    · exact h.launches hs hd hp hw
  · rw [complete_error rfl]
    exact h.endedWith (by simp [hs]) _ _
  · have hidle : s.seq ≠ .idle := by simp [hs]
    rcases issueStep_cases s with ⟨-, e⟩ | ⟨w, hq, -, e⟩ | ⟨w, hq, -, e⟩ <;> rw [e]
    · exact h.complete (.inl (h.busFault_eq_zero hidle)) rfl rfl rfl rfl h.log_accepted
    · exact h.writeStep hs hq
    · exact h.probeStep hs hq

/-! ### The host's steps -/

theorem StateInv.hostWrite (h : StateInv s) (off : BitVec 4) (v : Word) :
    StateInv (hostWrite off v s) := by
  rcases hostWrite_cases off v s with e | e | ⟨a, e⟩ | e <;> rw [e]
  · cases hb : s.status.busy with
    | true => rw [writeCmd_busy hb]; exact h.ovr true
    | false => rw [writeCmd_idle hb]; exact h.accept v
  · exact h.ovr _
  · exact h.args a
  · exact h

/-- After a reset the log is empty, or is the write that was with BUS and that BUS accepted last
(R341, log 5). -/
theorem StateInv.resetStep (s : State) : StateInv (resetStep s) := by
  have fresh (u : State) : StateInv (resetBlock u) :=
    { StateInv.powerOn u.par with log_accepted := List.nil_suffix }
  rcases resetStep_cases s with e | ⟨w, -, hok, e⟩ | ⟨w, c, -, -, e⟩ <;> rw [e]
  · exact fresh s
  · exact { fresh s with
      issued_in_order := List.nil_suffix
      log_accepted := by
        rw [resetBlock_bus, acceptedWrites_busAfterWrite_ok hok]
        exact List.suffix_append _ _ }
  · exact fresh _

theorem StateInv.step (h : StateInv s) {t : State} (hstep : step s = .next t) : StateInv t := by
  obtain ⟨-, ⟨l, hc⟩ | ⟨l, off, rfl⟩ | ⟨l, off, v, -, rfl⟩ | ⟨l, rfl⟩ | ⟨l, -, rfl⟩⟩ :=
    step_cases hstep
  · exact (h.hostSide l s.rdata).coreStep hc
  · exact h.hostSide l _
  · exact (h.hostSide l s.rdata).hostWrite off v
  · exact h.hostSide l s.rdata
  · exact StateInv.resetStep _

end

/-! ### The parameters -/

theorem coreStep_par {s t : State} (h : coreStep s = .next t) : t.par = s.par := by
  obtain ⟨-, rfl⟩ | ⟨i, -, -, hx⟩ | ⟨r, -, -, rfl⟩ | ⟨-, rfl⟩ := coreStep_cases h
  · rfl
  · rcases exec_outcome i s with ⟨e, -, -, hx'⟩ | ⟨r, -, -, hx'⟩ | ⟨p, -, -, hx'⟩ <;>
      cases hx'.symm.trans hx <;> rfl
  · rfl
  · rcases issueStep_cases s with ⟨-, e⟩ | ⟨w, -, -, e⟩ | ⟨w, -, -, e⟩ <;> rw [e]
    · rfl
    · rcases writeStep_cases w s with ⟨-, e⟩ | ⟨c, -, e⟩ <;> simp only [e, complete_par]
    · rcases probeStep_cases s with ⟨-, e⟩ | ⟨-, -, e⟩ | ⟨-, -, -, e⟩ <;>
        simp only [e, complete_par]

theorem hostWrite_par (off : BitVec 4) (v : Word) (s : State) :
    (hostWrite off v s).par = s.par := by
  rcases hostWrite_cases off v s with e | e | ⟨a, e⟩ | e <;> rw [e]
  cases hb : s.status.busy with
  | true => rw [writeCmd_busy hb]
  | false => rw [writeCmd_idle hb]; rfl

theorem resetStep_par (s : State) : (resetStep s).par = s.par := by
  rcases resetStep_cases s with e | ⟨w, -, -, e⟩ | ⟨w, c, -, -, e⟩ <;> (rw [e]; rfl)

/-- No step changes the parameters (R340). -/
theorem step_par {s t : State} (h : step s = .next t) : t.par = s.par := by
  obtain ⟨-, ⟨l, hc⟩ | ⟨l, off, rfl⟩ | ⟨l, off, v, -, rfl⟩ | ⟨l, rfl⟩ | ⟨l, -, rfl⟩⟩ := step_cases h
  · have := coreStep_par hc
    exact this
  · rfl
  · exact hostWrite_par off v _
  · rfl
  · exact resetStep_par _

/-! ### The obligations -/

/-- Settles O14. -/
theorem invHoldsAfterReset : Obligations.InvHoldsAfterReset := StateInv.powerOn

/-- Settles O15, over what a step can do: CORE's turn, a host access, or a reset. -/
theorem stepKeepsInv : Obligations.StepKeepsInv := fun _ _ h hstep => ⟨h.step hstep, step_par hstep⟩

end Sys2Proof.Machine
end

section
/-! The EXEC step (10_state.md R44) and the completion (60_exceptions.md R306): what they read, what
they commit and what they leave unchanged. -/

namespace Sys2Proof.Machine

/-! ### Completion (R306) -/

theorem commits_iff (e : ErrCode) :
    e.commits = true ↔ e = .noError ∨ e = .busFault ∨ e = .busNotReady := by
  cases e <;> simp

/-- Settles O45: what each result of PEND gives where the error commits it; the rest is the
completion's own. -/
theorem completionCommits : Obligations.CompletionCommits := by
  intro e s
  refine ⟨?res, ?cal, rfl, rfl, rfl, rfl, ?init, rfl⟩
  case res =>
    simp only [complete_res, committedRes, commits_iff]
    rcases s.pend with _ | ⟨_ | r, c, i⟩ <;> rfl
  case cal =>
    simp only [complete_cal, committedCal, commits_iff]
    rcases s.pend with _ | ⟨r, _ | c, i⟩ <;> rfl
  case init =>
    rcases hp : s.pend with _ | ⟨r, c, i⟩ <;> simp [setsInitDone, hp]

/-! ### CORE's turn in EXEC (R44, R106) -/

/-- The state of CORE's turn differs from the one before it in the host's list only (log 2). -/
theorem CoreTurn.eq {s t : State} (h : CoreTurn s t) : s = { t with inputs := s.inputs } := by
  rcases h with ⟨-, rfl⟩ | ⟨rest, -, rfl⟩ <;> rfl

theorem CoreTurn.seq {s t : State} (h : CoreTurn s t) : s.seq = t.seq := by rw [h.eq]

theorem CoreTurn.latch {s t : State} (h : CoreTurn s t) : s.latch = t.latch := by rw [h.eq]

theorem CoreTurn.par {s t : State} (h : CoreTurn s t) : s.par = t.par := by rw [h.eq]

section
variable {s t : State} (hw : s.par.dev.wellFormed = true) (ht : CoreTurn s t)
include hw ht

theorem step_exec {i : Instr} (hs : s.seq = .exec) (hd : decode s.latch.cmd = .ok i) :
    step s = exec i t := by
  rw [step_core hw ht, coreStep_exec (ht.seq ▸ hs) (ht.latch ▸ hd)]

theorem step_illegal {r : Illegal} (hs : s.seq = .exec) (hd : decode s.latch.cmd = .error r) :
    step s = .next (endedWith .illegalCommand t.res t.cal t) := by
  rw [step_core hw ht, coreStep_illegal (ht.seq ▸ hs) (ht.latch ▸ hd), complete_error rfl]

end

/-- A word placed for the next step is accepted, and CORE's turn is next (log 14). -/
theorem withFetchWord_coreTurn (s : State) (w : Word) :
    CoreTurn (s.withFetchWord 32 w.toNat) (accept w s) := by
  have word : BitVec.ofNat 32 (w.toNat % 2 ^ 32) = w := by
    rw [Nat.mod_eq_of_lt w.isLt, BitVec.ofNat_toNat, BitVec.setWidth_eq]
  cases hi : s.inputs with
  | nil =>
    simp only [State.withFetchWord, word, hi]
    exact .inl ⟨hi, rfl⟩
  | cons ev rest =>
    simp only [State.withFetchWord, word, hi]
    exact .inr ⟨ev :: rest, rfl, by rw [← hi]; rfl⟩

/-- Settles O8. -/
theorem stepRunsDecodedCommand : Obligations.StepRunsDecodedCommand := by
  refine ⟨fun s t i hw ht hs hd => step_exec hw ht hs hd, fun s w i hw hd => ?_⟩
  have turn := withFetchWord_coreTurn s w
  exact step_exec (by rw [turn.par]; exact hw) turn turn.seq (by rw [turn.latch]; exact hd)

/-- Settles O9: each of the four forms makes `decode` refuse the word. -/
theorem illegalWordEndsCommand : Obligations.IllegalWordEndsCommand := by
  intro s t hw ht hs hill
  obtain ⟨r, hr⟩ : ∃ r, decode s.latch.cmd = .error r := by
    by_cases hres : s.latch.cmd.getLsbD 7 ∨ s.latch.cmd.extractLsb' 13 3 ≠ 0#3
    · exact ⟨_, decode_reservedBit hres⟩
    · refine ⟨_, decode_reservedOpcode hres ?_⟩
      rcases hill with h | h | h
      · exact absurd (.inl h) hres
      · exact absurd (.inr h) hres
      · exact h
  exact step_illegal hw ht hs hr

/-! ### What an EXEC step leaves unchanged, and what it reads (R44) -/

/-- Settles O10, over the three ends of an EXEC step: with an error, with results, or about to
issue. -/
theorem execFrame : Obligations.ExecFrame := by
  intro i s
  rcases exec_outcome i s with ⟨e, -, -, hx⟩ | ⟨r, -, hi, hx⟩ | ⟨p, -, -, hx⟩ <;> refine ⟨_, hx, ?_⟩
  · simp [endedWith]
  · have notKept : ¬∀ k r, i ≠ .solve ∧ i ≠ .solveIq ∧ i ≠ .derive k r := by
      intro h
      rcases hi with rfl | rfl | ⟨k, r, rfl⟩
      · exact (h .pll 0).1 rfl
      · exact (h .pll 0).2.1 rfl
      · exact (h k r).2.2 rfl
    simp [endedWith, notKept]
  · simp [issuing]

/-- A command's computation reads L, CAL and the parameters only (R44). -/
theorem planOf_congr (i : Instr) {s s' : State} (hl : s.latch = s'.latch) (hc : s.cal = s'.cal)
    (hp : s.par = s'.par) : planOf i s = planOf i s' := by
  simp only [planOf, signedArg0, calibration, hl, hc, hp]

/-- Settles O11: both states have the same plan, and how a plan ends a step is not a matter of the
state. -/
theorem execReadsOnlyLatchAndCal : Obligations.ExecReadsOnlyLatchAndCal := by
  intro i s s' t t' hl hc hp hx hx'
  have plan := planOf_congr i hl hc hp
  rcases exec_outcome i s with ⟨e, he, hne, h⟩ | ⟨r, hr, -, h⟩ | ⟨p, hk, hw, h⟩ <;>
    cases h.symm.trans hx
  · rw [exec_eq_execPlan, ← plan, he, execPlan_error, complete_error hne] at hx'
    cases hx'
    refine ⟨rfl, rfl, rfl, fun _ => ⟨rfl, fun h0 => ?_⟩⟩
    cases h0; cases hne
  · rw [exec_eq_execPlan, ← plan, hr, execPlan_ok, launch_results] at hx'
    cases hx'
    exact ⟨rfl, rfl, rfl, fun _ => ⟨rfl, fun _ => rfl⟩⟩
  · rw [exec_eq_execPlan, ← plan, hk, execPlan_ok, launch_issuing hw] at hx'
    cases hx'
    exact ⟨rfl, rfl, rfl, fun h => nomatch h⟩

end Sys2Proof.Machine
end

section
/-! What a step may change that the host sees (10_state.md R48, 20_memory.md R81 and R83): the
cases of a step by their effect on RES, CAL, BUSFAULT and STATUS, and the rules on who writes each
of them. -/

namespace Sys2Proof.Machine

/-! ### The effect of a step -/

/-- A host write by its register: CMD, STATUS, or one that changes at most the ARG registers. -/
theorem hostWrite_byRegister (off : BitVec 4) (v : Word) (s : State) :
    (off = 0x0 ∧ hostWrite off v s = writeCmd v s) ∨
    (off = 0x1 ∧ hostWrite off v s = { s with status := s.status.write v }) ∨
    ∃ a, hostWrite off v s = { s with args := a } := by
  by_cases h0 : off = 0x0
  · exact .inl ⟨h0, h0 ▸ hostWrite_cmd v s⟩
  by_cases h1 : off = 0x1
  · exact .inr (.inl ⟨h1, h1 ▸ hostWrite_status v s⟩)
  refine .inr (.inr ?_)
  by_cases h4 : off = 0x4
  · exact ⟨_, h4 ▸ hostWrite_arg0 v s⟩
  by_cases h5 : off = 0x5
  · exact ⟨_, h5 ▸ hostWrite_arg1 v s⟩
  by_cases h6 : off = 0x6
  · exact ⟨_, h6 ▸ hostWrite_arg2 v s⟩
  exact ⟨s.args, hostWrite_readOnly v s (by bv_omega) h4 h5 h6⟩

/-- A step by what the host sees of it. -/
inductive StepEffect (s t : State) : Prop where
  /-- RES, CAL, BUSFAULT and STATUS are as they were. -/
  | none (hres : t.res = s.res) (hcal : t.cal = s.cal) (hfault : t.busFault = s.busFault)
      (hstatus : t.status = s.status)
  /-- A command ends in its EXEC step, with no correction committed (R44). -/
  | execEnds (hseq : s.seq = .exec) (l : List HostEvent) (e : ErrCode) (r : Results)
      (ht : t = endedWith e r s.cal { s with inputs := l })
  /-- A command ends in ISSUE (R45, R230). -/
  | issueEnds (hseq : s.seq = .issue) (e : ErrCode) (ht : CompletesAs e s t)
      (hdone : e = .noError → s.q.length ≤ s.widx)
  /-- The host writes CMD and the command is accepted (R41). -/
  | accepts (v : Word) (hw : HostWrites s 0x0 v) (hbusy : s.status.busy = false)
      (l : List HostEvent) (ht : t = accept v { s with inputs := l })
  /-- The host writes CMD while a command runs (R42). -/
  | overruns (v : Word) (hw : HostWrites s 0x0 v) (hbusy : s.status.busy = true)
      (l : List HostEvent) (ht : t = { s with inputs := l, status := s.status.overrun })
  /-- The host writes STATUS (R33). -/
  | statusWrite (v : Word) (hw : HostWrites s 0x1 v)
      (l : List HostEvent) (ht : t = { s with inputs := l, status := s.status.write v })
  /-- The block is reset (R340). -/
  | resets (hr : ResetsNext s)

/-- The end of a command in ISSUE without error is the step that finds every write of Q accepted
(R45). -/
theorem issueStep_noError {s : State} (hs : s.seq = .issue) (hidle : (issueStep s).seq = .idle)
    (herr : (issueStep s).status.err = .noError) : s.q.length ≤ s.widx := by
  rcases issueStep_cases s with ⟨hq, -⟩ | ⟨w, -, -, e⟩ | ⟨w, -, -, e⟩
  · exact hq
  · rcases writeStep_cases w s with ⟨-, e'⟩ | ⟨c, -, e'⟩ <;> rw [e, e'] at hidle herr
    · cases hs.symm.trans hidle
    · cases herr
  · rcases probeStep_cases s with ⟨-, e'⟩ | ⟨-, -, e'⟩ | ⟨-, -, -, e'⟩ <;> rw [e, e'] at hidle herr
    · cases hs.symm.trans hidle
    · cases hs.symm.trans hidle
    · cases herr

theorem coreStep_effect {s t : State} {l : List HostEvent}
    (h : coreStep { s with inputs := l } = .next t) : StepEffect s t := by
  rcases coreStep_visible h with ⟨hc, hst, hr, hf⟩ | ⟨hs, e, r, ht⟩ | ⟨hs, e, ht⟩
  · exact .none hr hc hf hst
  · exact .execEnds hs l e r ht
  · refine .issueEnds hs e ht fun he => ?_
    rw [coreStep_issue hs] at h
    cases h
    obtain ⟨u, hu, -⟩ := ht
    have hend := issueStep_noError hs (by rw [hu]; rfl) (by rw [hu]; exact he)
    exact hend

theorem step_effect {s t : State} (h : step s = .next t) : StepEffect s t := by
  obtain ⟨-, ⟨l, hc⟩ | ⟨l, off, rfl⟩ | ⟨l, off, v, hw, rfl⟩ | ⟨l, rfl⟩ | ⟨l, hr, rfl⟩⟩ :=
    step_cases h
  · exact coreStep_effect hc
  · exact .none rfl rfl rfl rfl
  · rcases hostWrite_byRegister off v { s with inputs := l } with ⟨rfl, e⟩ | ⟨rfl, e⟩ | ⟨a, e⟩
    · cases hb : s.status.busy with
      | true => exact .overruns v hw hb l (by rw [e, writeCmd_busy (by exact hb)])
      | false => exact .accepts v hw hb l (by rw [e, writeCmd_idle (by exact hb)])
    · exact .statusWrite v hw l e
    · rw [e]; exact .none rfl rfl rfl rfl
  · exact .none rfl rfl rfl rfl
  · exact .resets hr

/-! ### The rules, one per writer (R34, R37, R48, R83) -/

/-- Settles O46, over the effects of a step: only an end of a command, an acceptance and a reset
change one of the seven. -/
theorem completionIsOneStep : Obligations.CompletionIsOneStep := by
  intro s t h hch
  cases step_effect h with
  | none hres hcal hfault hst => simp [hres, hcal, hfault, hst] at hch
  | execEnds hs l e r ht =>
    subst ht
    exact .inl ⟨by simp [hs], rfl, rfl, rfl, fun hf => absurd rfl hf⟩
  | issueEnds hs e ht =>
    obtain ⟨u, rfl, -, -, -, -, -, hf⟩ := ht
    exact .inl ⟨by simp [hs], rfl, rfl, rfl, hf⟩
  | accepts v hw hb l ht =>
    subst ht
    exact .inr (.inl ⟨v, hw, hb, rfl, rfl, rfl, rfl⟩)
  | overruns v hw hb l ht => subst ht; simp at hch
  | statusWrite v hw l ht => subst ht; simp at hch
  | resets hr => exact .inr (.inr hr)

/-- Settles O53: only a command's end in ISSUE commits a correction, and by the invariant the
command is an INIT. -/
theorem calWrittenOnlyByInit : Obligations.CalWrittenOnlyByInit := by
  intro s t inv h hch
  cases step_effect h with
  | none hres hcal => exact absurd hcal hch
  | execEnds hs l e r ht => subst ht; exact absurd rfl hch
  | issueEnds hs e ht =>
    obtain ⟨u, rfl, hcal, -, -, -, hpend, -⟩ := ht
    rcases committedCal_cases e u with hc | ⟨p, hp, hc, -⟩
    · exact absurd (hc.trans hcal) hch
    · rw [hpend] at hp
      exact .inl ⟨inv.pend_is_init p hp (.inl (by simp [hc])), inv.busy_iff.mpr (by simp [hs]), rfl,
        p, hp, hc⟩
  | accepts v hw hb l ht => subst ht; exact absurd rfl hch
  | overruns v hw hb l ht => subst ht; exact absurd rfl hch
  | statusWrite v hw l ht => subst ht; exact absurd rfl hch
  | resets hr => exact .inr hr

/-- A completion that sets INIT_DONE has no error and finds the update in PEND (R306). -/
theorem setsInitDone_iff (e : ErrCode) (s : State) :
    setsInitDone e s = true ↔ e = .noError ∧ ∃ p, s.pend = some p ∧ p.init = true := by
  cases hp : s.pend <;> simp [setsInitDone, hp]

/-- Settles O54: only a command's end in ISSUE sets INIT_DONE, and by the invariant the command is
an INIT. -/
theorem initDoneOnlyByInit : Obligations.InitDoneOnlyByInit := by
  intro s t inv h hch
  cases step_effect h with
  | none _ _ _ hst => exact absurd (congrArg Status.initDone hst) hch
  | execEnds hs l e r ht => subst ht; exact absurd rfl hch
  | issueEnds hs e ht =>
    obtain ⟨u, rfl, -, -, hst, -, hpend, -⟩ := ht
    cases hset : setsInitDone e u with
    | false => simp [hset, hst] at hch
    | true =>
      obtain ⟨rfl, p, hp, hinit⟩ := (setsInitDone_iff e u).mp hset
      rw [hpend] at hp
      exact .inl ⟨inv.pend_is_init p hp (.inr hinit), inv.busy_iff.mpr (by simp [hs]), rfl, rfl,
        by simp [hset]⟩
  | accepts v hw hb l ht => subst ht; exact absurd rfl hch
  | overruns v hw hb l ht => subst ht; exact absurd rfl hch
  | statusWrite v hw l ht => subst ht; exact absurd rfl hch
  | resets hr => exact .inr hr

/-- Settles O55: acceptance and completion keep OVR, so the effects left are the two host writes
and the reset. -/
theorem ovrOnlyByHost : Obligations.OvrOnlyByHost := by
  intro s t h hch
  cases step_effect h with
  | none _ _ _ hst => exact absurd (congrArg Status.ovr hst) hch
  | execEnds hs l e r ht => subst ht; exact absurd rfl hch
  | issueEnds hs e ht =>
    obtain ⟨u, rfl, -, -, hst, -⟩ := ht
    exact absurd (congrArg Status.ovr hst) hch
  | accepts v hw hb l ht => subst ht; exact absurd rfl hch
  | overruns v hw hb l ht => subst ht; exact .inl ⟨v, hw, hb, rfl⟩
  | statusWrite v hw l ht =>
    subst ht
    cases hv : v.getLsbD 3 with
    | false => rw [status_write_eq, hv] at hch; exact absurd rfl hch
    | true => exact .inr (.inl ⟨v, hw, hv, by simp [hv]⟩)
  | resets hr => exact .inr (.inr hr)

/-- Settles O56: the two ends of a command and the acceptance write all three flags, and the host's
other writes none. -/
theorem flagsOnlyByAcceptanceAndCompletion : Obligations.FlagsOnlyByAcceptanceAndCompletion := by
  intro s t h hch
  cases step_effect h with
  | none _ _ _ hst => simp [hst] at hch
  | execEnds hs l e r ht =>
    subst ht
    exact .inr (.inl ⟨rfl, rfl, rfl, .inl hs, fun _ hi => absurd (hs.symm.trans hi) (by decide)⟩)
  | issueEnds hs e ht hdone =>
    obtain ⟨u, rfl, -⟩ := ht
    exact .inr (.inl ⟨rfl, rfl, rfl, .inr hs, fun he _ => hdone he⟩)
  | accepts v hw hb l ht => subst ht; exact .inl ⟨v, hw, hb, rfl, rfl, rfl, rfl, rfl⟩
  | overruns v hw hb l ht => subst ht; simp at hch
  | statusWrite v hw l ht => subst ht; simp at hch
  | resets hr => exact .inr (.inr hr)

/-- Settles O57: RES is written by the two ends of a command, which a command with BUSY = 1 makes.
-/
theorem resultsChangeOnlyAtCompletion : Obligations.ResultsChangeOnlyAtCompletion := by
  intro s t inv h hch
  cases step_effect h with
  | none hres => exact absurd hres hch
  | execEnds hs l e r ht =>
    subst ht; exact .inl ⟨inv.busy_iff.mpr (by simp [hs]), rfl, rfl⟩
  | issueEnds hs e ht =>
    obtain ⟨u, rfl, -⟩ := ht; exact .inl ⟨inv.busy_iff.mpr (by simp [hs]), rfl, rfl⟩
  | accepts v hw hb l ht => subst ht; exact absurd rfl hch
  | overruns v hw hb l ht => subst ht; exact absurd rfl hch
  | statusWrite v hw l ht => subst ht; exact absurd rfl hch
  | resets hr => exact .inr hr

/-! ### The write log (R81) -/

theorem hostWrite_log (off : BitVec 4) (v : Word) (s : State) :
    (hostWrite off v s).log = s.log := by
  rcases hostWrite_cases off v s with e | e | ⟨a, e⟩ | e <;> rw [e]
  cases hb : s.status.busy with
  | true => rw [writeCmd_busy hb]
  | false => rw [writeCmd_idle hb]; rfl

/-- CORE and BUS keep the log, or append the write at WIDX that BUS accepts (R230). -/
theorem coreStep_log {s t : State} (h : coreStep s = .next t) :
    t.log = s.log ∨ ∃ w, s.seq = .issue ∧ s.q[s.widx]? = some w ∧ t.log = s.log ++ [w] ∧
      t.widx = s.widx + 1 := by
  obtain ⟨-, rfl⟩ | ⟨i, -, -, hx⟩ | ⟨r, -, -, rfl⟩ | ⟨hs, rfl⟩ := coreStep_cases h
  · exact .inl rfl
  · rcases exec_outcome i s with ⟨e, -, -, hx'⟩ | ⟨r, -, -, hx'⟩ | ⟨p, -, -, hx'⟩ <;>
      cases hx'.symm.trans hx <;> exact .inl rfl
  · exact .inl rfl
  · rcases issueStep_cases s with ⟨-, e⟩ | ⟨w, hq, -, e⟩ | ⟨w, -, -, e⟩ <;> rw [e]
    · exact .inl rfl
    · rcases writeStep_cases w s with ⟨-, e⟩ | ⟨c, -, e⟩ <;> rw [e]
      · exact .inr ⟨w, hs, hq, rfl, rfl⟩
      · exact .inl rfl
    · rcases probeStep_cases s with ⟨-, e⟩ | ⟨-, -, e⟩ | ⟨-, -, -, e⟩ <;> rw [e] <;> exact .inl rfl

/-- Settles O58. -/
theorem logGrowsInQOrder : Obligations.LogGrowsInQOrder := by
  intro s t h
  obtain ⟨-, ⟨l, hc⟩ | ⟨l, off, rfl⟩ | ⟨l, off, v, -, rfl⟩ | ⟨l, rfl⟩ | ⟨l, hr, rfl⟩⟩ :=
    step_cases h
  · exact (coreStep_log hc).imp_right .inl
  · exact .inl rfl
  · exact .inl (hostWrite_log off v _)
  · exact .inl rfl
  · exact .inr (.inr hr)

end Sys2Proof.Machine
end

section
/-! Host accesses with an effect on the block (10_state.md R32, R41; 30_encoding.md R108, R109) and
the reset input (70_reset_and_hazards.md R340, R341). -/

namespace Sys2Proof.Machine

/-- Settles O16. -/
theorem cmdWriteAccepts : Obligations.CmdWriteAccepts := by
  intro s v rest hw hi hb
  rw [step_write hw hi, hostWrite_cmd, writeCmd_idle (s := { s with inputs := rest }) hb]
  rfl

/-! ### The STATUS word (R32, R300) -/

theorem status_toWord_toNat (st : Status) :
    st.toWord.toNat = st.err.code.toNat * 16 + st.ovr.toNat * 8 + st.initDone.toNat * 4 +
      st.done.toNat * 2 + st.busy.toNat := by
  simp only [Status.toWord, append_toNat, BitVec.toNat_ofBool, BitVec.toNat_ofNat]
  omega

/-- Settles O21: a flag is a bit of the part it lies in, and the four flags together are below 16.
-/
theorem statusWordLayout : Obligations.StatusWordLayout := by
  intro st
  have code : st.toWord.toNat / 16 = st.err.code.toNat := by
    have := Bool.toNat_le st.ovr
    have := Bool.toNat_le st.initDone
    have := Bool.toNat_le st.done
    have := Bool.toNat_le st.busy
    rw [status_toWord_toNat]
    omega
  rw [code]
  refine ⟨?busy, ?done, ?initDone, ?ovr, ?err⟩
  case err => cases st.err <;> rfl
  all_goals simp only [Status.toWord, BitVec.getLsbD_append, ofBool_getLsbD]; simp

/-! ### Reset (R340, R341) -/

theorem step_reset {s : State} {rest : List HostEvent} (hw : s.par.dev.wellFormed = true)
    (hi : s.inputs = .reset :: rest) :
    step s = .next (resetStep { s with inputs := rest }) :=
  step_host hw (by simp only [schedule, hi])

theorem resetStep_noWrite {s : State} (h : s.inWrite = false) : resetStep s = resetBlock s := by
  simp [resetStep, h]

/-- A reset with a write in flight, or none: the block at its reset values but for what BUS decides
of that write, and BUS's record only added to (R341, R342, log 5). -/
theorem resetStep_eq (s : State) :
    ∃ b l, resetStep s = { resetBlock s with bus := b, log := l } ∧ s.bus.trace <+: b.trace ∧
      (l = [] ∨ ∃ w, s.inWrite = true ∧ s.q[s.widx]? = some w ∧ l = [w]) ∧
      (s.inWrite = false → b = s.bus ∧ l = []) := by
  by_cases hin : s.inWrite = true
  · have grows (w : Write) : s.bus.trace <+: (busAfterWrite w s).trace := by simp [busAfterWrite]
    have inFlight {p : Prop} (h : s.inWrite = false) : p := by cases hin.symm.trans h
    rcases resetStep_cases s with e | ⟨w, hq, -, e⟩ | ⟨w, c, -, -, e⟩
    · exact ⟨s.bus, [], e, List.prefix_rfl, .inl rfl, inFlight⟩
    · exact ⟨_, [w], e, grows w, .inr ⟨w, hin, hq, rfl⟩, inFlight⟩
    · exact ⟨_, [], e, grows w, .inl rfl, inFlight⟩
  · exact ⟨s.bus, [], resetStep_noWrite (eq_false_of_ne_true hin), List.prefix_rfl, .inl rfl,
      fun _ => ⟨rfl, rfl⟩⟩

/-- Settles O24. -/
theorem resetAbandonsCommand : Obligations.ResetAbandonsCommand := by
  intro s rest hw hi
  obtain ⟨b, l, e, hgrows, hlog, hnone⟩ := resetStep_eq { s with inputs := rest }
  exact ⟨_, step_reset hw hi, by rw [e]; rfl, by rw [e]; exact hgrows, by rw [e]; exact hlog,
    by rw [e]; exact hnone⟩

/-! ### Statements of the assembler (R108) -/

/-- The number of operands of a statement is 0, 1 or 3. -/
theorem operands_cases (st : Stmt) :
    st.operands = [] ∨ (∃ a, st.operands = [a]) ∨ ∃ a b c, st.operands = [a, b, c] := by
  cases st <;> simp [Stmt.operands]

theorem assemble_append (st : Stmt) (rest : List HostEvent) :
    assemble st ++ rest =
      (st.operands.zipIdx.map fun (v, k) => HostEvent.write (BitVec.ofNat 4 (4 + k)) v) ++
        .write 0x0 (encode st.instr) :: .wait :: rest := by
  simp [assemble]

/-- Three operand writes, one per ARG register. -/
theorem core_run_threeArgs {s : State} {a b c : Word} {rest : List HostEvent}
    (hw : s.par.dev.wellFormed = true)
    (hi : s.inputs = .write 0x4 a :: .write 0x5 b :: .write 0x6 c :: rest) :
    core.run 3 s = (.next { s with inputs := rest, args := ⟨a, b, c⟩ } :
      Host.Outcome State Fault Refusal) := by
  have write0 := step_write hw hi
  have write1 := step_write
    (s := { s with
      inputs := .write 0x5 b :: .write 0x6 c :: rest, args := { s.args with a0 := a } })
    hw rfl
  have write2 := step_write
    (s := { s with inputs := .write 0x6 c :: rest, args := { s.args with a0 := a, a1 := b } })
    hw rfl
  rw [hostWrite_arg0] at write0
  rw [hostWrite_arg1] at write1
  rw [hostWrite_arg2] at write2
  exact (core_run_succ write0 2).trans ((core_run_succ write1 1).trans (core_run_one write2))

/-- After the operand writes of a statement the CMD write latches them with its word (R41). -/
theorem statement_accepted {s : State} {st : Stmt} {rest : List HostEvent} (a : Args)
    (hw : s.par.dev.wellFormed = true) (hb : s.status.busy = false)
    (hrun : core.run st.operands.length s =
      (.next { s with inputs := .write 0x0 (encode st.instr) :: .wait :: rest, args := a } :
        Host.Outcome State Fault Refusal))
    (hargs : st.operands <+: [a.a0, a.a1, a.a2])
    (hkept : [a.a0, a.a1, a.a2].drop st.operands.length =
      [s.args.a0, s.args.a1, s.args.a2].drop st.operands.length) :
    ∃ t, core.run (st.operands.length + 1) s = .next t ∧ t.seq = .exec ∧
      t.latch.cmd = encode st.instr ∧ t.status.busy = true ∧ t.inputs = .wait :: rest ∧
      st.operands <+: [t.latch.args.a0, t.latch.args.a1, t.latch.args.a2] ∧
      [t.latch.args.a0, t.latch.args.a1, t.latch.args.a2].drop st.operands.length =
        [s.args.a0, s.args.a1, s.args.a2].drop st.operands.length ∧
      t.log = s.log ∧ t.bus = s.bus ∧ t.res = s.res ∧ t.cal = s.cal := by
  have hcmd := step_write
    (s := { s with inputs := .write 0x0 (encode st.instr) :: .wait :: rest, args := a }) hw rfl
  rw [hostWrite_cmd, writeCmd_idle (by exact hb)] at hcmd
  exact ⟨_, (core_run_add _ 1 hrun).trans (core_run_one hcmd), rfl, rfl, rfl, rfl, hargs, hkept,
    rfl, rfl, rfl, rfl⟩

/-- Settles O25, by the number of operands: each is written to its ARG register. -/
theorem statementIsAccepted : Obligations.StatementIsAccepted := by
  intro st s rest hw hb hi
  rw [assemble_append] at hi
  rcases operands_cases st with ho | ⟨a, ho⟩ | ⟨a, b, c, ho⟩ <;> rw [ho] at hi
  · refine statement_accepted s.args hw hb ?_ (by simp [ho]) rfl
    rw [ho, show HostEvent.write 0x0 (encode st.instr) :: .wait :: rest = s.inputs from hi.symm]
    rfl
  · refine statement_accepted { s.args with a0 := a } hw hb ?_ (by simp [ho]) (by rw [ho]; rfl)
    rw [ho]
    exact core_run_one (step_write hw hi)
  · refine statement_accepted ⟨a, b, c⟩ hw hb ?_ (by simp [ho]) (by rw [ho]; rfl)
    rw [ho]
    exact core_run_threeArgs hw hi

/-! ### Host programs (R109) -/

/-- Settles O26: a host program is one event that `expand` replaces, and a poll of WAIT reads
STATUS. -/
theorem hostProgramsExpand : Obligations.HostProgramsExpand := by
  intro s chanA chanB p d ph f rest hw
  have program {q : Pseudo} (hi : s.inputs = .pseudo q :: rest) :
      step s = .next { s with inputs := expand q s.res ++ rest } :=
    step_host hw (by simp only [schedule, hi])
  refine ⟨fun hi => program hi, fun hi => ?_, fun hi => program hi, fun hi => ?_⟩
  · rw [program hi, expand, List.append_assoc]; rfl
  · exact step_host hw (by simp only [schedule, hi]; rfl)

/-! ### The default profile (60_exceptions.md R311) -/

/-- Settles O13: 54 addresses, compared one by one. -/
theorem defaultProfileIsSound : Obligations.DefaultProfileIsSound := by
  exact ⟨by decide, by decide, rfl, rfl⟩

/-! ### The device image (00_scope.md R19) -/

/-- Settles O59, by induction on the log from its end: the last write is the one found first. -/
theorem deviceImageIsLastWrite : Obligations.DeviceImageIsLastWrite := by
  intro log
  induction log using List.reverseRecOn with
  | nil => exact ⟨rfl, fun _ => rfl⟩
  | append_singleton log w ih =>
    obtain ⟨hwf, hread⟩ := ih
    rw [deviceImage_append]
    refine ⟨Memory.wf_write hwf _ _, fun a => ?_⟩
    rw [List.reverse_append, List.reverse_singleton, List.singleton_append]
    by_cases h : w.reg = a
    · subst h
      simp [Memory.read_write_same hwf]
    · have hne : a.toNat ≠ w.reg.toNat := fun e => h (BitVec.eq_of_toNat_eq e.symm)
      simp [Memory.read_write_other _ _ hne, hread, h]

end Sys2Proof.Machine
end

section
/-! Issuing writes (10_state.md R45, 42_protocol.md R230 to R232): one step of the write primitive
by BUS's answer, and the runs it makes with a silent host on a BUS that answers as chosen (R354,
R370). -/

namespace Sys2Proof.Machine

/-! ### One step in ISSUE -/

section
variable {s : State}

theorem issueStep_done (h : s.q.length ≤ s.widx) : issueStep s = complete .noError s := by
  simp [issueStep, List.getElem?_eq_none h]

theorem issueStep_probe {w : Write} (hq : s.q[s.widx]? = some w) (hin : s.inWrite = false) :
    issueStep s = probeStep s := by simp [issueStep, hq, hin]

theorem issueStep_write {w : Write} (hq : s.q[s.widx]? = some w) (hin : s.inWrite = true) :
    issueStep s = writeStep w s := by simp [issueStep, hq, hin]

theorem probeStep_ready (h : s.bus.drawProbe.1 = .ready) :
    probeStep s = { s with bus := s.bus.drawProbe.2.record (.probe s.par.devBusAddr .ready),
                           inWrite := true } := by simp [probeStep, h]

theorem probeStep_notReady (h : s.bus.drawProbe.1 = .notReady) :
    probeStep s =
      if 0 < s.par.readyLimit ∧ s.par.readyLimit ≤ s.pcnt + 1
      then complete .busNotReady
        { s with bus := s.bus.drawProbe.2.record (.probe s.par.devBusAddr .notReady),
                 pcnt := s.pcnt + 1 }
      else { s with bus := s.bus.drawProbe.2.record (.probe s.par.devBusAddr .notReady),
                    pcnt := s.pcnt + 1 } := by simp [probeStep, h]

theorem writeStep_ok {w : Write} (h : s.bus.drawOutcome.1 = .ok) :
    writeStep w s = { s with bus := s.bus.drawOutcome.2.record (.write s.par.devBusAddr w .ok),
                             log := s.log ++ [w], pcnt := 0, widx := s.widx + 1,
                             inWrite := false } := by simp [writeStep, h]

theorem writeStep_fault {w : Write} {c : Byte} (h : s.bus.drawOutcome.1 = .fault c) :
    writeStep w s = complete .busFault
      { s with bus := s.bus.drawOutcome.2.record (.write s.par.devBusAddr w (.fault c)),
               busFault := c.setWidth 32 } := by simp [writeStep, h, zext32]

end

/-- Settles O47: in CORE's turn the step is `issueStep`, whose cases are BUS's answers. -/
theorem writePrimitiveStep : Obligations.WritePrimitiveStep := by
  intro s t hw ht hs
  have turn : step s = .next (issueStep t) := by rw [step_core hw ht, coreStep_issue (ht.seq ▸ hs)]
  obtain ⟨l, rfl⟩ : ∃ l, s = { t with inputs := l } := ⟨_, ht.eq⟩
  have answers {u : State} (h : issueStep t = u) : step { t with inputs := l } = .next u := h ▸ turn
  refine ⟨fun h => answers (issueStep_done (s := t) h), fun w hq => ⟨fun hin => ⟨?_, ?_⟩,
    fun hin => ⟨?_, fun c => ?_⟩⟩⟩ <;> rintro h b rfl
  · exact answers ((issueStep_probe (s := t) hq hin).trans (probeStep_notReady (s := t) h))
  · exact answers ((issueStep_probe (s := t) hq hin).trans (probeStep_ready (s := t) h))
  · exact answers ((issueStep_write (s := t) hq hin).trans (writeStep_ok (s := t) h))
  · exact answers ((issueStep_write (s := t) hq hin).trans (writeStep_fault (s := t) h))

/-! ### Runs with a silent host -/

/-- CORE and BUS take every step: the DEVMAP is well formed and the host has no event to come. -/
structure Silent (s : State) : Prop where
  wellFormed : s.par.dev.wellFormed = true
  inputs : s.inputs = []

section
variable {s : State}

theorem Silent.step (h : Silent s) : step s = coreStep s :=
  step_core h.wellFormed (.inl ⟨h.inputs, rfl⟩)

theorem Silent.step_issue (h : Silent s) (hs : s.seq = .issue) :
    Machine.step s = .next (issueStep s) := by
  rw [h.step, coreStep_issue hs]

/-- A step in ISSUE that does not end the command is one event of BUS (R370). -/
theorem Silent.stepEvents_issue (h : Silent s) (hs : s.seq = .issue) {w : Write}
    (hq : s.q[s.widx]? = some w) (ht : (issueStep s).seq = .issue) :
    stepEvents s = if s.inWrite then [.write] else [.probe] := by
  rw [stepEvents_silent h.inputs, coreEvents_eq (coreStep_issue hs)]
  simp [workEvents, hs, hq, ht]

/-! #### Accepted writes -/

/-- The state of ISSUE after the first `n` writes of Q have been accepted, BUS being `b` (R39,
R45). -/
def afterWrites (n : Nat) (b : BusPort) (s : State) : State :=
  { s with log := s.log ++ s.q.take n, widx := n, pcnt := 0, inWrite := false, bus := b }

theorem afterWrites_zero (hx : s.widx = 0) (hc : s.pcnt = 0) (hin : s.inWrite = false) :
    afterWrites 0 s.bus s = s := by
  cases s
  simp_all [afterWrites]

/-- BUS is `b` after a run from `s` in which it accepted the writes `ws`: what its lists hold next, and
its record (log 3, log 7). -/
structure Accepted (ws : List Write) (ps : List Probe) (os : List WriteOutcome)
    (s : State) (b : BusPort) : Prop where
  probes : b.probes = ps
  outcomes : b.outcomes = os
  accepted : acceptedWrites b.trace = acceptedWrites s.bus.trace ++ ws

/-- A ready probe, before any of its write (R230). -/
theorem Silent.probe_ready (h : Silent s) (hs : s.seq = .issue) {w : Write}
    (hq : s.q[s.widx]? = some w) (hin : s.inWrite = false) {ps : List Probe}
    (hp : s.bus.probes = .ready :: ps) :
    Machine.step s = .next { s with
      bus := { s.bus with probes := ps }.record (.probe s.par.devBusAddr .ready)
      inWrite := true } ∧
    stepEvents s = [.probe] := by
  have e : issueStep s = _ :=
    (issueStep_probe hq hin).trans (probeStep_ready (by rw [drawProbe_cons hp]))
  rw [drawProbe_cons hp] at e
  refine ⟨by rw [h.step_issue hs, e], ?_⟩
  rw [h.stepEvents_issue hs hq (by rw [e]; exact hs), hin]
  rfl

/-- The write of a ready probe, accepted (R230). -/
theorem Silent.write_ok (h : Silent s) (hs : s.seq = .issue) {w : Write}
    (hq : s.q[s.widx]? = some w) (hin : s.inWrite = true) {os : List WriteOutcome}
    (ho : s.bus.outcomes = .ok :: os) :
    Machine.step s = .next { s with
      bus := { s.bus with outcomes := os }.record (.write s.par.devBusAddr w .ok)
      log := s.log ++ [w], pcnt := 0, widx := s.widx + 1, inWrite := false } ∧
    stepEvents s = [.write] := by
  have e : issueStep s = _ :=
    (issueStep_write hq hin).trans (writeStep_ok (by rw [drawOutcome_cons ho]))
  rw [drawOutcome_cons ho] at e
  refine ⟨by rw [h.step_issue hs, e], ?_⟩
  rw [h.stepEvents_issue hs hq (by rw [e]; exact hs), hin]
  rfl

/-- The write of a ready probe, refused by BUS with a code (R232). -/
theorem Silent.write_fault (h : Silent s) (hs : s.seq = .issue) {w : Write}
    (hq : s.q[s.widx]? = some w) (hin : s.inWrite = true) {c : Byte} {os : List WriteOutcome}
    (ho : s.bus.outcomes = .fault c :: os) :
    Machine.step s = .next (complete .busFault { s with
      bus := { s.bus with outcomes := os }.record (.write s.par.devBusAddr w (.fault c))
      busFault := c.setWidth 32 }) := by
  rw [h.step_issue hs, issueStep_write hq hin, writeStep_fault (by rw [drawOutcome_cons ho]),
    drawOutcome_cons ho]

/-- A probe and its write on a BUS that is ready and accepts it. -/
theorem Silent.run_oneWrite (h : Silent s) (hs : s.seq = .issue) {w : Write}
    (hq : s.q[s.widx]? = some w) (hin : s.inWrite = false) {ps : List Probe}
    {os : List WriteOutcome} (hp : s.bus.probes = .ready :: ps) (ho : s.bus.outcomes = .ok :: os) :
    ∃ b, core.run 2 s = (.next { s with
        bus := b, log := s.log ++ [w], pcnt := 0, widx := s.widx + 1, inWrite := false } :
          Host.Outcome State Fault Refusal) ∧
      Accepted [w] ps os s b ∧ runEvents 2 s = [.probe, .write] := by
  obtain ⟨probe, probeEv⟩ := h.probe_ready hs hq hin hp
  obtain ⟨write, writeEv⟩ := Silent.write_ok
    (s := { s with
      bus := { s.bus with probes := ps }.record (.probe s.par.devBusAddr .ready), inWrite := true })
    ⟨h.wellFormed, h.inputs⟩ hs hq rfl ho
  refine ⟨_, (core_run_succ probe 1).trans (core_run_one write), ⟨rfl, rfl, ?_⟩, ?_⟩
  · simp [acceptedWrites]
  · rw [runEvents_succ probe, runEvents_succ write, probeEv, writeEv]; rfl

/-- `n` writes on a BUS that is ready and accepts them, by induction on `n`: two steps and two
events each, in Q's order. -/
theorem Silent.run_writes (h : Silent s) (hs : s.seq = .issue) (hx : s.widx = 0) (hc : s.pcnt = 0)
    (hin : s.inWrite = false) (n : Nat) (hn : n ≤ s.q.length) {ps : List Probe}
    {os : List WriteOutcome} (hp : s.bus.probes = List.replicate n Probe.ready ++ ps)
    (ho : s.bus.outcomes = List.replicate n WriteOutcome.ok ++ os) :
    ∃ b, core.run (2 * n) s = (.next (afterWrites n b s) : Host.Outcome State Fault Refusal) ∧
      Accepted (s.q.take n) ps os s b ∧
      runEvents (2 * n) s = (List.replicate n [Event.probe, Event.write]).flatten := by
  induction n generalizing ps os with
  | zero => exact ⟨s.bus, by rw [afterWrites_zero hx hc hin]; rfl, ⟨hp, ho, by simp⟩, rfl⟩
  | succ n ih =>
    rw [List.replicate_succ', List.append_assoc] at hp ho
    obtain ⟨b, hrun, ⟨hbp, hbo, hba⟩, hev⟩ := ih (by omega) hp ho
    have hq : s.q[n]? = some s.q[n] := List.getElem?_eq_getElem (by omega)
    have htake : s.q.take (n + 1) = s.q.take n ++ [s.q[n]] := by
      rw [List.take_add_one, hq]; rfl
    obtain ⟨b', hrun', ⟨hp', ho', ha'⟩, hev'⟩ :=
      Silent.run_oneWrite (s := afterWrites n b s) ⟨h.wellFormed, h.inputs⟩ hs hq rfl hbp hbo
    refine ⟨b', (core_run_add (2 * n) 2 hrun).trans (hrun'.trans ?_), ⟨hp', ho', ?_⟩, ?_⟩
    · simp only [afterWrites, htake, List.append_assoc]
      rfl
    · rw [ha', htake, ← List.append_assoc, ← hba]; rfl
    · rw [Nat.mul_succ, runEvents_add (2 * n) 2 hrun, hev, hev', List.replicate_succ']
      simp

/-- The end of the list: with every write accepted, one more step completes the command (R45). -/
theorem Silent.run_end (h : Silent s) (hs : s.seq = .issue) (hq : s.q.length ≤ s.widx) :
    core.run 1 s = (.next (complete .noError s) : Host.Outcome State Fault Refusal) ∧
      runEvents 1 s = [.completion] := by
  have hend := h.step_issue hs
  rw [issueStep_done hq] at hend
  refine ⟨core_run_one hend, ?_⟩
  rw [runEvents_succ hend, stepEvents_silent h.inputs, coreEvents_done hs hq]
  rfl

/-- The whole of ISSUE on a BUS that is ready and accepts everything (R45, R81, R370). -/
theorem Silent.run_issue (h : Silent s) (hs : s.seq = .issue) (hx : s.widx = 0) (hc : s.pcnt = 0)
    (hin : s.inWrite = false) {ps : List Probe} {os : List WriteOutcome}
    (hp : s.bus.probes = List.replicate s.q.length Probe.ready ++ ps)
    (ho : s.bus.outcomes = List.replicate s.q.length WriteOutcome.ok ++ os) :
    ∃ b, core.run (2 * s.q.length + 1) s =
        (.next (complete .noError { s with log := s.log ++ s.q, bus := b }) :
          Host.Outcome State Fault Refusal) ∧
      Accepted s.q ps os s b ∧
      runEvents (2 * s.q.length + 1) s =
        (List.replicate s.q.length [Event.probe, Event.write]).flatten ++ [.completion] := by
  obtain ⟨b, hrun, hacc, hev⟩ := h.run_writes hs hx hc hin s.q.length le_rfl hp ho
  obtain ⟨hend, hendEv⟩ :=
    Silent.run_end (s := afterWrites s.q.length b s) ⟨h.wellFormed, h.inputs⟩ hs le_rfl
  rw [List.take_length] at hacc
  refine ⟨b, (core_run_add _ 1 hrun).trans (hend.trans ?_), hacc, ?_⟩
  · rw [afterWrites, List.take_length]; rfl
  · rw [runEvents_add _ 1 hrun, hev, hendEv]

/-! #### Failed probes -/

/-- A failed probe counts, and ends the command where READY_LIMIT is reached (R230). -/
theorem Silent.probe_notReady (h : Silent s) (hs : s.seq = .issue) {w : Write}
    (hq : s.q[s.widx]? = some w) (hin : s.inWrite = false) {ps : List Probe}
    (hp : s.bus.probes = .notReady :: ps) :
    Machine.step s = .next
      (if 0 < s.par.readyLimit ∧ s.par.readyLimit ≤ s.pcnt + 1
       then complete .busNotReady
        { s with bus := { s.bus with probes := ps }.record (.probe s.par.devBusAddr .notReady),
                 pcnt := s.pcnt + 1 }
       else { s with bus := { s.bus with probes := ps }.record (.probe s.par.devBusAddr .notReady),
                     pcnt := s.pcnt + 1 }) := by
  rw [h.step_issue hs, issueStep_probe hq hin, probeStep_notReady (by rw [drawProbe_cons hp]),
    drawProbe_cons hp]

/-- `n` failed probes that stay below READY_LIMIT, or with READY_LIMIT = 0 any number, by induction
on `n` (R230, R354). -/
theorem Silent.run_failedProbes (h : Silent s) (hs : s.seq = .issue) (hq : s.widx < s.q.length)
    (hin : s.inWrite = false) (n : Nat) {ps : List Probe}
    (hlim : 0 < s.par.readyLimit → s.pcnt + n < s.par.readyLimit)
    (hp : s.bus.probes = List.replicate n Probe.notReady ++ ps) :
    ∃ b, core.run n s =
        (.next { s with pcnt := s.pcnt + n, bus := b } : Host.Outcome State Fault Refusal) ∧
      b.probes = ps := by
  induction n generalizing ps with
  | zero => exact ⟨s.bus, rfl, hp⟩
  | succ n ih =>
    rw [List.replicate_succ', List.append_assoc] at hp
    obtain ⟨b, hrun, hb⟩ := ih (fun hl => by have := hlim hl; omega) hp
    have below : ¬(0 < s.par.readyLimit ∧ s.par.readyLimit ≤ s.pcnt + n + 1) := fun hl => by
      have := hlim hl.1; omega
    have hq' : s.q[s.widx]? = some s.q[s.widx] := List.getElem?_eq_getElem hq
    have probe := Silent.probe_notReady (s := { s with pcnt := s.pcnt + n, bus := b })
      ⟨h.wellFormed, h.inputs⟩ hs hq' hin hb
    rw [if_neg below] at probe
    exact ⟨_, (core_run_add n 1 hrun).trans (core_run_one probe), rfl⟩

end

/-! ### The obligations on runs -/

/-- An EXEC step completes the command, or leaves it about to issue (R44, R106). -/
theorem coreStep_exec_ends {s u : State} (hs : s.seq = .exec) (h : coreStep s = .next u) :
    (u.seq = .idle ∧ u.status.busy = false ∧ u.status.done = true ∧ u.q = []) ∨
      ∃ p ws, u = issuing p ws s := by
  obtain ⟨hidle, -⟩ | ⟨i, -, -, hx⟩ | ⟨r, -, -, rfl⟩ | ⟨hissue, -⟩ := coreStep_cases h
  · cases hs.symm.trans hidle
  · rcases exec_outcome i s with ⟨e, -, -, h⟩ | ⟨r, -, -, h⟩ | ⟨p, -, -, h⟩ <;>
      cases h.symm.trans hx
    · exact .inl ⟨rfl, rfl, rfl, rfl⟩
    · exact .inl ⟨rfl, rfl, rfl, rfl⟩
    · exact .inr ⟨_, _, rfl⟩
  · exact .inl ⟨rfl, rfl, rfl, rfl⟩
  · cases hs.symm.trans hissue

/-- Settles O48: the EXEC step alone completes the command, or the whole of ISSUE follows it. -/
theorem commandRunsToCompletion : Obligations.CommandRunsToCompletion := by
  intro s u i hw hi hs hd hx
  have hcore : coreStep s = .next u := by rw [coreStep_exec hs hd, hx]
  have hexec := core_run_one ((Silent.step ⟨hw, hi⟩).trans hcore)
  rcases coreStep_exec_ends hs hcore with ⟨hidle, hbusy, hdone, -⟩ | ⟨p, ws, rfl⟩
  · exact ⟨fun _ _ hu => absurd (hidle.symm.trans hu) (by decide),
      fun _ => ⟨hexec, hidle, hbusy, hdone⟩⟩
  · refine ⟨fun ps os _ hp ho => ?_, fun hu => absurd rfl hu⟩
    obtain ⟨b, hrun, ⟨hbp, hbo, hba⟩, -⟩ :=
      Silent.run_issue (s := issuing p ws s) ⟨hw, hi⟩ rfl rfl rfl rfl hp ho
    refine ⟨_, b, ?_, rfl, hbp, hbo, hba⟩
    rw [Nat.add_assoc]
    exact (core_run_add 1 _ hexec).trans hrun

/-- Settles O49, by where the EXEC step leaves the command: at rest, with its two events, or about
to issue, with the events of the whole of ISSUE to come. -/
theorem commandTakesCountedEvents : Obligations.CommandTakesCountedEvents := by
  intro s u ps os hw hi hs hu hp ho
  suffices ∃ k t, core.run k s = (.next t : Host.Outcome State Fault Refusal) ∧ t.seq = .idle ∧
      t.status.done = true ∧ runEvents k s =
        .exec :: (List.replicate u.q.length [Event.probe, Event.write]).flatten ++ [.completion] by
    obtain ⟨k, t, hrun, hidle, hdone, hev⟩ := this
    refine ⟨k, t, hrun, hidle, hdone, hev, ?_⟩
    rw [hev]
    simp [List.length_flatten]
    omega
  have hcore : coreStep s = .next u := by rw [← Silent.step ⟨hw, hi⟩, hu]
  have firstEv : runEvents 1 s = if u.seq = .idle then [.exec, .completion] else [.exec] := by
    rw [runEvents_succ hu, stepEvents_silent hi, coreEvents_exec hs hcore, runEvents,
      List.append_nil]
  rcases coreStep_exec_ends hs hcore with ⟨hidle, -, hdone, hq⟩ | ⟨p, ws, rfl⟩
  · exact ⟨1, u, core_run_one hu, hidle, hdone, by rw [firstEv, if_pos hidle, hq]; rfl⟩
  · obtain ⟨b, hrun, -, hev⟩ :=
      Silent.run_issue (s := issuing p ws s) ⟨hw, hi⟩ rfl rfl rfl rfl hp ho
    have hexec := core_run_one hu
    refine ⟨1 + (2 * ws.length + 1), _, (core_run_add 1 _ hexec).trans hrun, rfl, rfl, ?_⟩
    rw [runEvents_add 1 _ hexec, firstEv, if_neg (by simp [issuing])]
    exact congrArg _ hev

/-- Settles O50: k accepted writes, a ready probe, and the write that BUS refuses. -/
theorem busFaultStopsAfterAcceptedWrites : Obligations.BusFaultStopsAfterAcceptedWrites := by
  intro s k c ps os hw hi hs hx hc hin hk hp ho
  rw [List.replicate_succ', List.append_assoc] at hp
  obtain ⟨b, hrun, ⟨hbp, hbo, hba⟩, -⟩ :=
    Silent.run_writes ⟨hw, hi⟩ hs hx hc hin k (by omega) hp ho
  have hq : s.q[k]? = some s.q[k] := List.getElem?_eq_getElem hk
  obtain ⟨probe, -⟩ :=
    Silent.probe_ready (s := afterWrites k b s) ⟨hw, hi⟩ hs hq rfl hbp
  have write := Silent.write_fault
    (s := { afterWrites k b s with
      bus := { b with probes := ps }.record (.probe s.par.devBusAddr .ready), inWrite := true })
    ⟨hw, hi⟩ hs hq rfl hbo
  refine ⟨_, _, (core_run_add (2 * k) 2 hrun).trans
    ((core_run_succ probe 1).trans (core_run_one write)), rfl, rfl, rfl, ?_⟩
  simpa [acceptedWrites] using hba

/-- Settles O51: below the limit every probe only counts; the one that reaches it ends the command.
-/
theorem boundedReadyWait : Obligations.BoundedReadyWait := by
  intro s n ps hw hi hs hq hc hin hl hp
  refine ⟨fun hn => ?_, fun hn => ?_⟩
  · obtain ⟨b, hrun, -⟩ :=
      Silent.run_failedProbes ⟨hw, hi⟩ hs hq hin n (fun _ => by omega) hp
    exact ⟨_, hrun, hs, by simp [hc], rfl, rfl, rfl, rfl⟩
  · obtain ⟨m, rfl⟩ : ∃ m, n = m + 1 := ⟨n - 1, by omega⟩
    rw [List.replicate_succ', List.append_assoc] at hp
    obtain ⟨b, hrun, hb⟩ := Silent.run_failedProbes ⟨hw, hi⟩ hs hq hin m (fun _ => by omega) hp
    have last := Silent.probe_notReady (s := { s with pcnt := s.pcnt + m, bus := b }) ⟨hw, hi⟩ hs
      (List.getElem?_eq_getElem hq) hin hb
    rw [if_pos ⟨hl, by simp only; omega⟩] at last
    exact ⟨_, (core_run_add m 1 hrun).trans (core_run_one last), rfl, rfl, rfl, rfl, rfl⟩

/-- Settles O52. -/
theorem unboundedReadyWait : Obligations.UnboundedReadyWait := by
  intro s n ps hw hi hs hq hin hl hp
  obtain ⟨b, hrun, -⟩ := Silent.run_failedProbes ⟨hw, hi⟩ hs hq hin n (fun h0 => by omega) hp
  exact ⟨_, hrun, hs, rfl, rfl, rfl, rfl, rfl, rfl, rfl⟩

end Sys2Proof.Machine
end

section
/-! Parameters and parameter blocks (41_encoder.md): what `deriveP` and `pack` compute, as numbers,
and the obligations on them. -/

namespace Sys2Proof.Machine

/-! ### DERIVE_P (R190) -/

section
variable {kind : Kind} {ip num den : Word}

theorem p1Of_lt (a b c : Nat) : p1Of a b c < 2 ^ 32 := by unfold p1Of; omega

theorem p2Of_lt {b c : Nat} (hc : 0 < c) : p2Of b c < c := Nat.mod_lt _ hc

theorem deriveP_four (h : ip.toNat = 4) : deriveP .div ip num den = .ok ⟨0, 0, 1, 0b11⟩ :=
  if_pos ⟨rfl, h⟩

theorem deriveP_zeroDenominator (hfour : ¬(kind = .div ∧ ip.toNat = 4)) (h : den.toNat = 0) :
    deriveP kind ip num den = .error .zeroDenominator := by
  rw [deriveP, uns, if_neg hfour, uns, if_pos h]

/-- P1, P2 and P3 of the general case, P1 and P2 being the numbers of R190 below 2^32. -/
def generalParms (ip num den : Word) : Parms where
  p1 := BitVec.ofNat 32 (p1Of ip.toNat num.toNat den.toNat)
  p2 := BitVec.ofNat 32 (p2Of num.toNat den.toNat)
  p3 := den
  db4 := 0

@[simp] theorem generalParms_p1_toNat :
    (generalParms ip num den).p1.toNat = p1Of ip.toNat num.toNat den.toNat := by
  rw [generalParms, BitVec.toNat_ofNat, Nat.mod_eq_of_lt (p1Of_lt _ _ _)]

theorem generalParms_p2_toNat (h : den.toNat ≠ 0) :
    (generalParms ip num den).p2.toNat = p2Of num.toNat den.toNat := by
  have := p2Of_lt (b := num.toNat) (Nat.pos_of_ne_zero h)
  rw [generalParms, BitVec.toNat_ofNat, Nat.mod_eq_of_lt (by omega)]

theorem deriveP_general (hfour : ¬(kind = .div ∧ ip.toNat = 4)) (h : den.toNat ≠ 0) :
    deriveP kind ip num den = .ok (generalParms ip num den) := by
  rw [deriveP, uns, if_neg hfour, uns, if_neg h]
  refine congrArg Except.ok ?_
  rw [generalParms, Parms.mk.injEq]
  refine ⟨BitVec.eq_of_toNat_eq ?_, BitVec.eq_of_toNat_eq ?_, rfl, rfl⟩
  · rw [u32, BitVec.toNat_ofInt, BitVec.toNat_ofNat, Nat.mod_eq_of_lt (p1Of_lt _ _ _)]
    rfl
  · rw [u32, BitVec.ofInt_natCast]
    rfl

end

/-! ### PACK and UNPACK (R194, R196) -/

theorem bits_toNat (w : Word) (lo len : Nat) :
    (bits w lo len).toNat = w.toNat / 2 ^ lo % 2 ^ len := by
  rw [bits, BitVec.extractLsb'_toNat, Nat.shiftRight_eq_div_pow]

/-- The eight bytes of a block in order. -/
def Block.bytes (b : Block) : List Byte := [b.b0, b.b1, b.b2, b.b3, b.b4, b.b5, b.b6, b.b7]

/-- The packed bytes from the parameters as numbers (R194). -/
theorem pack_bytes (k : Parms) (rs : BitVec 3) :
    (pack k rs).bytes =
      blockBytes k.p1.toNat k.p2.toNat k.p3.toNat k.db4.toNat rs.toNat := by
  have := k.p1.isLt
  have := k.p2.isLt
  have := k.p3.isLt
  have := k.db4.isLt
  have := rs.isLt
  simp only [Block.bytes, pack, blockBytes, List.map_cons, List.map_nil, List.cons.injEq, and_true]
  refine ⟨?_, ?_, ?_, ?_, ?_, ?_, ?_, ?_⟩ <;> apply BitVec.eq_of_toNat_eq <;>
    simp only [append_toNat, bits_toNat, BitVec.toNat_ofNat] <;> omega

/-- A block's writes are its bytes at ascending addresses (R197). -/
theorem writeBulk_eq_blockWrites (base : Byte) (b : Block) :
    writeBulk base b = blockWrites base b.bytes := by
  simp [writeBulk, blockWrites, Block.bytes, BitVec.ofNat_add]

theorem unpackParms_pack_toNat (k : Parms) (rs : BitVec 3) :
    (unpackParms (pack k rs)).p1.toNat = k.p1.toNat % 2 ^ 18 ∧
    (unpackParms (pack k rs)).p2.toNat = k.p2.toNat % 2 ^ 20 ∧
    (unpackParms (pack k rs)).p3.toNat = k.p3.toNat % 2 ^ 20 := by
  have := rs.isLt
  have := k.db4.isLt
  refine ⟨?_, ?_, ?_⟩ <;>
    simp only [unpackParms, pack, append_toNat, bits_toNat, BitVec.extractLsb'_toNat,
      Nat.shiftRight_eq_div_pow, BitVec.toNat_ofNat] <;>
    omega

theorem unpackParms_pack_db4 (k : Parms) (rs : BitVec 3) :
    (unpackParms (pack k rs)).db4 = k.db4 := by
  have := k.db4.isLt
  apply BitVec.eq_of_toNat_eq
  simp only [unpackParms, pack, append_toNat, bits_toNat, BitVec.extractLsb'_toNat,
    Nat.shiftRight_eq_div_pow, BitVec.toNat_ofNat]
  omega

theorem unpackRsel_pack (k : Parms) (rs : BitVec 3) : unpackRsel (pack k rs) = rs := by
  have := k.db4.isLt
  have := rs.isLt
  apply BitVec.eq_of_toNat_eq
  simp only [unpackRsel, pack, append_toNat, bits_toNat, BitVec.extractLsb'_toNat,
    Nat.shiftRight_eq_div_pow, BitVec.toNat_ofNat]
  omega

theorem parms_eq {k l : Parms} (h1 : k.p1 = l.p1) (h2 : k.p2 = l.p2) (h3 : k.p3 = l.p3)
    (h4 : k.db4 = l.db4) : k = l := by
  cases k; cases l; simp_all

/-- The packer keeps 18 bits of P1 and 20 of P2 and P3, and nothing else is lost (R196). -/
theorem unpackParms_pack_eq_iff (k : Parms) (rs : BitVec 3) :
    unpackParms (pack k rs) = k ↔
      k.p1.toNat < 2 ^ 18 ∧ k.p2.toNat < 2 ^ 20 ∧ k.p3.toNat < 2 ^ 20 := by
  obtain ⟨h1, h2, h3⟩ := unpackParms_pack_toNat k rs
  constructor
  · intro h
    rw [h] at h1 h2 h3
    omega
  · rintro ⟨b1, b2, b3⟩
    exact parms_eq (BitVec.eq_of_toNat_eq (by omega)) (BitVec.eq_of_toNat_eq (by omega))
      (BitVec.eq_of_toNat_eq (by omega)) (unpackParms_pack_db4 k rs)

/-- Settles O38. -/
theorem packUnpackRoundTrip : Obligations.PackUnpackRoundTrip := by
  intro k rs
  obtain ⟨h1, h2, h3⟩ := unpackParms_pack_toNat k rs
  exact ⟨h1, h2, h3, unpackParms_pack_db4 k rs, unpackRsel_pack k rs, unpackParms_pack_eq_iff k rs⟩

/-! ### What the parameters denote (R191, R193) -/

/-- P1 where neither the product nor the sum of R190 wraps. -/
theorem p1Of_eq {ip num den : Nat} (hm : 128 * num < 2 ^ 32)
    (hlo : 512 ≤ 128 * ip + 128 * num / den) (hhi : 128 * ip + 128 * num / den < 2 ^ 32) :
    p1Of ip num den + 512 = 128 * ip + 128 * num / den := by
  rw [p1Of, Nat.mod_eq_of_lt hm]
  omega

/-- Settles O37: without wrapping, P1 + 512 and P2 are the quotient and the remainder of
128 (ip + num/den) by its denominator. -/
theorem encodedValueExact : Obligations.EncodedValueExact := by
  intro kind ip num den k hden hfour hm hlo hhi hk
  have hden' : den.toNat ≠ 0 := fun h => hden (BitVec.eq_of_toNat_eq h)
  have hfour' : ¬(kind = .div ∧ ip.toNat = 4) := fun h => hfour ⟨h.1, BitVec.eq_of_toNat_eq h.2⟩
  cases (deriveP_general hfour' hden').symm.trans hk
  rw [generalParms_p1_toNat, generalParms_p2_toNat hden']
  refine ⟨?_, p2Of_lt (Nat.pos_of_ne_zero hden')⟩
  have p2 : p2Of num.toNat den.toNat = 128 * num.toNat % den.toNat := by
    rw [p2Of, Nat.mod_eq_of_lt hm]
  have p1 : (p1Of ip.toNat num.toNat den.toNat + 512 : ℚ) =
      128 * ip.toNat + (128 * num.toNat / den.toNat : Nat) := by
    exact_mod_cast p1Of_eq hm hlo hhi
  have division : (den.toNat * (128 * num.toNat / den.toNat : Nat) +
      (128 * num.toNat % den.toNat : Nat) : ℚ) = 128 * num.toNat := by
    exact_mod_cast Nat.div_add_mod (128 * num.toNat) den.toNat
  have hd : (den.toNat : ℚ) ≠ 0 := by exact_mod_cast hden'
  rw [p1, p2, generalParms]
  field_simp
  linarith

/-- Settles O39: with num ≤ den the quotient 128 num / den is at most 128. -/
theorem documentedDomainFits : Obligations.DocumentedDomainFits := by
  intro ip num den rs hip hnum hden hne
  have hden' : den.toNat ≠ 0 := fun h => hne (BitVec.eq_of_toNat_eq h)
  by_cases hfour : ip.toNat = 4
  · refine ⟨_, deriveP_four hfour, by decide, (unpackParms_pack_eq_iff _ rs).mpr ?_⟩
    decide
  · have hm : 128 * num.toNat < 2 ^ 32 := by omega
    have hquot : 128 * num.toNat / den.toNat ≤ 128 := Nat.div_le_of_le_mul (by omega)
    have hlo : 512 ≤ 128 * ip.toNat := by omega
    have p1 := p1Of_eq (den := den.toNat) hm (Nat.le_add_right_of_le hlo) (by omega)
    have p2 := p2Of_lt (b := num.toNat) (Nat.pos_of_ne_zero hden')
    refine ⟨_, deriveP_general (fun h => hfour h.2) hden', ?_,
      (unpackParms_pack_eq_iff _ rs).mpr ?_⟩
    · rw [generalParms_p1_toNat]; omega
    · rw [generalParms_p1_toNat, generalParms_p2_toNat hden']
      exact ⟨by omega, by omega, hden⟩

/-! ### DERIVE (R200) -/

section
variable {kind : Kind} {rsel : BitVec 3} {s : State}

theorem exec_derive_error {e : ErrCode} (hne : e.commits = false)
    (h : deriveP kind s.latch.args.a0 s.latch.args.a1 s.latch.args.a2 = .error e) :
    exec (.derive kind rsel) s = .next (endedWith e s.res s.cal s) := by
  rw [exec_eq_execPlan, planOf, planDerive, h]
  exact congrArg _ (complete_error hne s)

theorem exec_derive_ok {k : Parms}
    (h : deriveP kind s.latch.args.a0 s.latch.args.a1 s.latch.args.a2 = .ok k) :
    exec (.derive kind rsel) s =
      .next (endedWith .noError (deriveResults k (pack k (deriveRsel kind rsel))) s.cal s) := by
  rw [exec_eq_execPlan, planOf, planDerive, h]
  exact congrArg _ (launch_results _ s)

end

/-- RES4 of DERIVE: the bytes of P3, of the selectors with P1, and of P1, the lower address first
(R75, R200). -/
theorem deriveResults_r4_toNat (k : Parms) (rs : BitVec 3) :
    (deriveResults k (pack k rs)).r4.toNat =
      (k.p3.toNat / 256 % 256) * 2 ^ 24 + (k.p3.toNat % 256) * 2 ^ 16 +
        (rs.toNat * 16 + k.db4.toNat * 4 + k.p1.toNat / 65536 % 4) * 2 ^ 8 +
        k.p1.toNat / 256 % 256 := by
  simp only [deriveResults, pack, append_toNat, bits_toNat, BitVec.toNat_ofNat]
  omega

/-- RES5 of DERIVE: the low bytes of P1 and P2 around the high bits of P3 and P2 (R200). -/
theorem deriveResults_r5_toNat (k : Parms) (rs : BitVec 3) :
    (deriveResults k (pack k rs)).r5.toNat =
      (k.p1.toNat % 256) * 2 ^ 24 +
        (k.p3.toNat / 65536 % 16 * 16 + k.p2.toNat / 65536 % 16) * 2 ^ 16 +
        (k.p2.toNat / 256 % 256) * 2 ^ 8 + k.p2.toNat % 256 := by
  simp only [deriveResults, pack, append_toNat, bits_toNat]
  omega

theorem deriveRsel_toNat (kind : Kind) (rsel : BitVec 3) :
    (deriveRsel kind rsel).toNat = if kind = .div then rsel.toNat else 0 := by
  cases kind <;> rfl

/-- Settles O36, by the three outcomes of `deriveP`. -/
theorem deriveResult : Obligations.DeriveResult := by
  rintro kind rsel s ip num den rs p1 p2 rfl rfl rfl rfl rfl rfl
  refine ⟨?four, ?zero, ?general⟩
  case four =>
    rintro rfl h
    refine ⟨_, exec_derive_ok (deriveP_four h), rfl, rfl, rfl, rfl, ?_,
      by simp [deriveResults, pack, bits], rfl, rfl⟩
    rw [deriveResults_r4_toNat, deriveRsel_toNat]
    simp
    omega
  case zero =>
    intro hfour h
    exact exec_derive_error rfl (deriveP_zeroDenominator hfour h)
  case general =>
    intro hfour h
    have r3 : 0#30 ++ (generalParms s.latch.args.a0 s.latch.args.a1 s.latch.args.a2).db4 = 0 := by
      simp [generalParms]
    refine ⟨_, exec_derive_ok (deriveP_general hfour h), generalParms_p1_toNat,
      generalParms_p2_toNat (ip := s.latch.args.a0) h, rfl, r3, rfl, rfl, ?_, ?_⟩
    · rw [deriveResults_r4_toNat, deriveRsel_toNat, generalParms_p1_toNat]
      rfl
    · rw [deriveResults_r5_toNat, generalParms_p1_toNat, generalParms_p2_toNat h]
      rfl

end Sys2Proof.Machine
end

section
/-! The protocol commands that write a block (42_protocol.md): the write lists of INIT, SETUP_PLL
and SETUP_OUTPUT, the checks before them, and the obligations on them. -/

namespace Sys2Proof.Machine

/-! ### INIT (R240, R241) -/

theorem planInit_legal {corr : Word} (h : CalLegal corr) (d : DevMap) :
    planInit corr d = .ok ⟨some ⟨none, some corr, true⟩, initWrites d⟩ :=
  if_neg fun hout => by
    obtain ⟨lo, hi⟩ := h
    simp only [calLimit] at hout
    omega

theorem planInit_illegal {corr : Word} (h : ¬CalLegal corr) (d : DevMap) :
    planInit corr d = .error .invalidCalibration :=
  if_pos <| by
    simp only [CalLegal] at h
    simp only [calLimit]
    omega

/-- Settles O40: the range check, the list of ten, and what the completion of it commits. -/
theorem initLaunchesTenWrites : Obligations.InitLaunchesTenWrites := by
  intro s
  refine ⟨fun h => ?_, fun h => ⟨_, ?_, rfl, fun e he => ⟨?_, ?_⟩⟩⟩
  · rw [exec_eq_execPlan, planOf, planInit_illegal h, execPlan_error, complete_error rfl]
  · rw [exec_eq_execPlan, planOf, planInit_legal h, execPlan_ok,
      launch_issuing (List.cons_ne_nil _ _)]
    rfl
  · rw [complete_cal, committedCal, (commits_iff e).mpr he]
    rfl
  · rw [complete_status, completed_initDone, Bool.or_eq_true, setsInitDone_iff]
    exact or_congr_right ⟨fun h => h.1, fun h => ⟨h, _, rfl, rfl⟩⟩

/-! ### SETUP_PLL (R250, R251) -/

/-- The nine writes of SETUP_PLL from its operands: the block at the PLL's base, then the reset. -/
def pllBlockWrites (d : DevMap) (p : Pll) (mult num den : Word) : List Write :=
  blockWrites (pllBase d p)
    (blockBytes (p1Of mult.toNat num.toNat den.toNat) (p2Of num.toNat den.toNat) den.toNat 0 0) ++
  [⟨d.pllResetReg, d.pllResetVal⟩]

section
variable {d : DevMap} {p : Pll} {mult num den : Word}

theorem pllWrites_zeroDenominator (h : den.toNat = 0) :
    pllWrites d p mult num den = .error .zeroDenominator := by
  rw [pllWrites, deriveP_zeroDenominator (by simp) h]

/-- A multiplier of 4 is no special case of a PLL (R190, R250). -/
theorem pllWrites_ok (h : den.toNat ≠ 0) :
    pllWrites d p mult num den = .ok (pllBlockWrites d p mult num den) := by
  rw [pllWrites, deriveP_general (by simp) h]
  simp only [writeBulk_eq_blockWrites, pack_bytes, pllBlockWrites]
  rw [← generalParms_p1_toNat, ← generalParms_p2_toNat (ip := mult) h]
  rfl

end

theorem exec_setupPll_zeroDenominator {p : Pll} {s : State} (h : s.latch.args.a2.toNat = 0) :
    exec (.setupPll p) s = .next (endedWith .zeroDenominator s.res s.cal s) := by
  rw [exec_eq_execPlan, planOf, pllWrites_zeroDenominator h]
  exact congrArg Host.Outcome.next (complete_error rfl s)

theorem exec_setupPll_ok {p : Pll} {s : State} (h : s.latch.args.a2.toNat ≠ 0) :
    exec (.setupPll p) s = .next (issuing none
      (pllBlockWrites s.par.dev p s.latch.args.a0 s.latch.args.a1 s.latch.args.a2) s) := by
  have hws := pllWrites_ok (d := s.par.dev) (p := p) (mult := s.latch.args.a0)
    (num := s.latch.args.a1) h
  have hne := List.ne_nil_of_length_pos (by rw [pllWrites_length hws]; omega)
  rw [exec_eq_execPlan, planOf, hws]
  exact congrArg Host.Outcome.next (launch_issuing hne s)

/-- Settles O41. -/
theorem setupPllWrites : Obligations.SetupPllWrites := by
  refine fun p s => ⟨fun h => exec_setupPll_zeroDenominator (by rw [h]; rfl), fun h => ?_⟩
  rw [exec_setupPll_ok fun h0 => h (BitVec.eq_of_toNat_eq h0)]
  cases p <;> rfl

/-! ### SETUP_OUTPUT (R260, R263, R264, R266) -/

theorem channelOf_none {chan : Byte} (h : 2 < chan.toNat) : channelOf chan = none := by
  unfold channelOf
  split
  case h_4 => rfl
  all_goals omega

/-- A CHAN byte up to 2 names the channel whose registers stand at its place (R311). -/
theorem channelOf_some {chan : Byte} (h : chan.toNat ≤ 2) (d : DevMap) :
    ∃ ch, channelOf chan = some ch ∧
      clkCtrl d ch = [d.clkCtrl0, d.clkCtrl1, d.clkCtrl2].getD chan.toNat 0 ∧
      msBase d ch = [d.msBase0, d.msBase1, d.msBase2].getD chan.toNat 0 ∧
      phaseReg d ch = [d.phaseReg0, d.phaseReg1, d.phaseReg2].getD chan.toNat 0 := by
  unfold channelOf
  interval_cases chan.toNat
  · exact ⟨.ch0, rfl, rfl, rfl, rfl⟩
  · exact ⟨.ch1, rfl, rfl, rfl, rfl⟩
  · exact ⟨.ch2, rfl, rfl, rfl, rfl⟩

theorem integerOnly_iff (div num : Word) :
    integerOnly div num = true ↔ div.toNat < 8 ∨ div.toNat = 8 ∧ num.toNat = 0 := by
  rw [integerOnly, Bool.or_eq_true, Bool.and_eq_true, decide_eq_true_iff, beq_iff_eq, beq_iff_eq]
  rfl

theorem integerBit_iff (aim : Bool) (div num : Word) :
    integerBit aim div num = true ↔ aim = true ∧ (num.toNat = 0 ∨ div.toNat = 4) := by
  rw [integerBit, Bool.and_eq_true, Bool.or_eq_true, beq_iff_eq, beq_iff_eq]
  rfl

theorem integerBit_toNat (aim : Bool) (div num : Word) :
    (integerBit aim div num).toNat =
      if aim = true ∧ (num.toNat = 0 ∨ div.toNat = 4) then 1 else 0 := by
  simp only [← integerBit_iff]
  cases integerBit aim div num <;> rfl

/-- The control byte as a number (R263). -/
theorem controlByte_eq_ofNat (int : Bool) (p : Pll) (drive : BitVec 2) :
    controlByte int p drive =
      BitVec.ofNat 8 (int.toNat * 64 + (pllBit p).toNat * 32 + 12 + drive.toNat) := by
  have := int.toNat_le
  have := (pllBit p).toNat_le
  have := drive.isLt
  apply BitVec.eq_of_toNat_eq
  simp only [controlByte, append_toNat, BitVec.toNat_ofBool, BitVec.toNat_ofNat]
  omega

/-- The phase byte: the low 7 bits (R266). -/
theorem phase_and_eq_ofNat (ph : Byte) : ph &&& 0x7F = BitVec.ofNat 8 (ph.toNat % 128) := by
  apply BitVec.eq_of_toNat_eq
  rw [BitVec.toNat_and, BitVec.toNat_ofNat, Nat.mod_eq_of_lt (by omega)]
  exact Nat.and_two_pow_sub_one_eq_mod _ 7

/-- The bytes of a divider's block: the divide-by-4 block for 4, else the general one (R190, R194).
-/
theorem deriveP_div_bytes {div num den : Word} (h : den.toNat ≠ 0 ∨ div.toNat = 4) (rs : BitVec 3) :
    ∃ k, deriveP .div div num den = .ok k ∧
      (pack k rs).bytes =
        if div.toNat = 4 then blockBytes 0 0 1 3 rs.toNat
        else blockBytes (p1Of div.toNat num.toNat den.toNat) (p2Of num.toNat den.toNat) den.toNat 0
          rs.toNat := by
  by_cases hfour : div.toNat = 4
  · exact ⟨_, deriveP_four hfour, by rw [pack_bytes, if_pos hfour]; rfl⟩
  · have hden := h.resolve_right hfour
    refine ⟨_, deriveP_general (fun h => hfour h.2) hden, ?_⟩
    rw [pack_bytes, if_neg hfour, generalParms_p1_toNat, generalParms_p2_toNat hden]
    rfl

/-- The ten writes of SETUP_OUTPUT to the registers of a channel, in order (R260). -/
def outputBlockWrites (d : DevMap) (chan control : Byte) (block : Block) (phase : Byte) :
    List Write :=
  [⟨[d.clkCtrl0, d.clkCtrl1, d.clkCtrl2].getD chan.toNat 0, control⟩] ++
  blockWrites ([d.msBase0, d.msBase1, d.msBase2].getD chan.toNat 0) block.bytes ++
  [⟨[d.phaseReg0, d.phaseReg1, d.phaseReg2].getD chan.toNat 0, phase⟩]

section
variable {d : DevMap} {chan : Byte} {p : Pll} {drive : BitVec 2} {div num den : Word} {aim : Bool}
  {rsel : BitVec 3} {ph : Byte}

theorem outputWrites_invalidChannel (h : 2 < chan.toNat) :
    outputWrites d chan p drive div num den aim rsel ph = .error .invalidChannel := by
  rw [outputWrites, channelOf_none h]

theorem outputWrites_unsupportedMode (hch : chan.toNat ≤ 2) (haim : aim = false)
    (h : integerOnly div num = true) :
    outputWrites d chan p drive div num den aim rsel ph = .error .unsupportedDividerMode := by
  obtain ⟨ch, hch, -⟩ := channelOf_some hch d
  simp only [outputWrites, hch, if_pos (And.intro haim h)]

theorem outputWrites_underivable (hch : chan.toNat ≤ 2)
    (hmode : ¬(aim = false ∧ integerOnly div num = true)) {e : ErrCode}
    (h : deriveP .div div num den = .error e) :
    outputWrites d chan p drive div num den aim rsel ph = .error e := by
  obtain ⟨ch, hch, -⟩ := channelOf_some hch d
  simp only [outputWrites, hch, if_neg hmode, h]

theorem outputWrites_ok (hch : chan.toNat ≤ 2) (hmode : ¬(aim = false ∧ integerOnly div num = true))
    {k : Parms} (h : deriveP .div div num den = .ok k) :
    outputWrites d chan p drive div num den aim rsel ph =
      .ok (outputBlockWrites d chan (controlByte (integerBit aim div num) p drive) (pack k rsel)
        (ph &&& 0x7F)) := by
  obtain ⟨ch, hch, hclk, hms, hph⟩ := channelOf_some hch d
  simp only [outputWrites, hch, if_neg hmode, h, outputBlockWrites, ← hclk, ← hms, ← hph,
    writeBulk_eq_blockWrites]
  rfl

/-- The EXEC step of SETUP_OUTPUT on a failed check. -/
theorem exec_setupOutput_error {s : State} {e : ErrCode} (hne : e.commits = false)
    (h : outputWrites s.par.dev chan p drive s.latch.args.a0 s.latch.args.a1 s.latch.args.a2 aim
      rsel ph = .error e) :
    exec (.setupOutput chan p drive aim rsel ph) s = .next (endedWith e s.res s.cal s) := by
  rw [exec_eq_execPlan, planOf, h]
  exact congrArg Host.Outcome.next (complete_error hne s)

/-- The EXEC step of SETUP_OUTPUT with its writes. -/
theorem exec_setupOutput_ok {s : State} {ws : List Write}
    (h : outputWrites s.par.dev chan p drive s.latch.args.a0 s.latch.args.a1 s.latch.args.a2 aim
      rsel ph = .ok ws) :
    exec (.setupOutput chan p drive aim rsel ph) s = .next (issuing none ws s) := by
  have hne : ws ≠ [] := List.ne_nil_of_length_pos (by rw [outputWrites_length h]; omega)
  rw [exec_eq_execPlan, planOf, h]
  exact congrArg Host.Outcome.next (launch_issuing hne s)

end

/-- Settles O42, check by check in the order of R303. -/
theorem setupOutputResult : Obligations.SetupOutputResult := by
  rintro chan p drive aim rsel ph s div num den int rfl rfl rfl rfl
  rw [← integerOnly_iff]
  refine ⟨fun h => ?_, fun hch haim h => ?_, fun hch hmode h hfour => ?_, fun hch hmode h => ?_⟩
  · exact exec_setupOutput_error rfl (outputWrites_invalidChannel h)
  · exact exec_setupOutput_error rfl (outputWrites_unsupportedMode hch haim h)
  · exact exec_setupOutput_error rfl
      (outputWrites_underivable hch hmode (deriveP_zeroDenominator (fun h => hfour h.2) h))
  · obtain ⟨k, hk, hbytes⟩ := deriveP_div_bytes h rsel
    rw [exec_setupOutput_ok (outputWrites_ok hch hmode hk), outputBlockWrites, hbytes,
      controlByte_eq_ofNat, integerBit_toNat, phase_and_eq_ofNat]
    cases p <;> rfl

end Sys2Proof.Machine
end

section
/-! The solver's numbers (40_solver.md): calibration, the two branches of SOLVE1 and SOLVEIQ as
integer divisions, their ranges, and the obligations on them. -/

namespace Sys2Proof.Machine

/-! ### Calibration (R141, R142, R144) -/

/-- A quotient truncated toward zero is smaller than the factor its dividend is smaller by. -/
theorem quot_lt_of_lt_mul {a b f : Int} (hb : 0 < b) (hlo : -(f * b) < a) (hhi : a < f * b) :
    -f < quot a b ∧ quot a b < f := by
  rw [quot_of_ne (by omega)]
  rcases le_total 0 a with ha | ha
  · rw [Int.tdiv_eq_ediv_of_nonneg ha]
    have := Int.ediv_nonneg ha hb.le
    have := Int.ediv_lt_of_lt_mul hb hhi
    omega
  · have nonneg : 0 ≤ -a := by omega
    rw [← neg_neg a, Int.neg_tdiv, Int.tdiv_eq_ediv_of_nonneg nonneg]
    have := Int.ediv_nonneg nonneg hb.le
    have := Int.ediv_lt_of_lt_mul (a := -a) (b := f) hb (by omega)
    omega

section
variable {F c : Int} (hF : 1 ≤ F) (hlo : -99999999 ≤ c) (hhi : c ≤ 99999999)
include hF hlo hhi

theorem calSingle_bounds : 1 ≤ calSingle F c ∧ calSingle F c ≤ 2 * F - 1 := by
  have := quot_lt_of_lt_mul (a := F * c) (b := 100000000) (f := F) (by omega) (by nlinarith)
    (by nlinarith)
  rw [calSingle]
  omega

theorem calQuad_bounds : 1 ≤ calQuad F c ∧ calQuad F c ≤ 2 * F - 1 := by
  obtain ⟨m, hm⟩ : ∃ m, m = F / 1000000 := ⟨_, rfl⟩
  have hm0 : 0 ≤ m := by omega
  have hprod : -(99999999 * m) ≤ m * c ∧ m * c ≤ 99999999 * m := by constructor <;> nlinarith
  have := quot_lt_of_lt_mul (a := m * c) (b := 100) (f := F) (by omega) (by omega) (by omega)
  rw [calQuad, quot_of_pos (a := F) (by omega) (by omega), ← hm]
  omega

end

theorem calSingle_zero (F : Int) : calSingle F 0 = F := by simp [calSingle]

theorem calQuad_zero (F : Int) : calQuad F 0 = F := by simp [calQuad]

/-- Settles O27. -/
theorem calibrationRange : Obligations.CalibrationRange := by
  refine fun F c => ⟨calSingle_zero F, calQuad_zero F, fun hF hlo hhi => ?_⟩
  obtain ⟨s1, s2⟩ := calSingle_bounds hF hlo hhi
  obtain ⟨q1, q2⟩ := calQuad_bounds hF hlo hhi
  exact ⟨s1, s2, q1, q2⟩

/-- The adjusted frequency of SOLVE1 lies in [1, 319,999,998] (R146). -/
theorem calSingle_boosted_bounds {c : Int} (hlo : -99999999 ≤ c) (hhi : c ≤ 99999999) (f : Int) :
    1 ≤ calSingle (boosted f).1 c ∧ calSingle (boosted f).1 c ≤ 319999998 := by
  obtain ⟨b, hb⟩ : ∃ b, b = (boosted f).1 := ⟨_, rfl⟩
  obtain ⟨blo, bhi⟩ := boosted_bounds f
  rw [← hb] at blo bhi ⊢
  refine ⟨(calSingle_bounds (by omega) hlo hhi).1, ?_⟩
  have := quot_lt_of_lt_mul (a := b * c) (b := 100000000) (f := 159999999) (by omega)
    (by nlinarith) (by nlinarith)
  rw [calSingle]
  omega

/-- The adjusted frequency of SOLVEIQ lies in [1, 199,999,999] (R172). -/
theorem calQuad_clamp_bounds {c : Int} (hlo : -99999999 ≤ c) (hhi : c ≤ 99999999) (f : Int) :
    1 ≤ calQuad (clamp f 1400000 100000000) c ∧
      calQuad (clamp f 1400000 100000000) c ≤ 199999999 := by
  have hb := clamp_bounds (v := f) (lo := 1400000) (hi := 100000000) (by omega)
  have := calQuad_bounds (F := clamp f 1400000 100000000) (by omega) hlo hhi
  omega

/-! ### The configurations as quotients and remainders (R145, R170) -/

/-- The low branch's reduction factor keeps its denominator below 2^20 (R145). -/
def lowFactor (F : Int) : Int := F / 2 ^ 20 + 1

theorem solveLow_eq {F : Int} (hF : 1 ≤ F) (rsel : BitVec 3) :
    solveLow F rsel =
      { pc := ⟨36, 0, 1⟩
        dc := ⟨900000000 / F, 900000000 % F / lowFactor F, F / lowFactor F, true, rsel⟩
        freq := F } := by
  have ht : 0 < lowFactor F := by unfold lowFactor; omega
  have hr : 0 ≤ 900000000 % F := Int.emod_nonneg _ (by omega)
  simp only [solveLow, shr]
  rw [quot_of_pos (by omega) (by omega), rem_of_pos (by omega) (by omega), ← lowFactor,
    quot_of_pos hr ht, quot_of_pos (by omega) ht]

/-- A PLL configuration against REF with factor 24, of denominator 25,000,000 / 24 (R145, R170). -/
theorem pllFor_eq {n : Int} (hn : 0 ≤ n) :
    pllFor n 24 = ⟨n / 25000000, n % 25000000 / 24, 1041666⟩ := by
  have hr : 0 ≤ n % 25000000 := Int.emod_nonneg _ (by omega)
  rw [pllFor, refHz, quot_of_pos hn (by omega), rem_of_pos hn (by omega),
    quot_of_pos hr (by omega), quot_of_pos (by omega) (by omega)]
  rfl

theorem solveHigh_eq {F : Int} (hF : 0 ≤ F) (rsel : BitVec 3) :
    solveHigh F rsel =
      { pc := ⟨ladder F * F / 25000000, ladder F * F % 25000000 / 24, 1041666⟩
        dc := ⟨ladder F, 0, 1, true, rsel⟩
        freq := F } := by
  have hn : 0 ≤ ladder F * F := Int.mul_nonneg (by unfold ladder; split_ifs <;> omega) hF
  rw [solveHigh, refFactor_eq, pllFor_eq hn]

/-- The divider of SOLVEIQ by band, as ordinary quotients (R170). -/
theorem quadDivider_eq {F : Int} (hF : 1 ≤ F) :
    quadDivider F =
      if F < 4900000 then 127 else if F < 8000000 then 625000000 / F else 900000000 / F := by
  rw [quadDivider, quot_of_pos (by omega) (by omega), quot_of_pos (by omega) (by omega)]

/-- The divider of SOLVEIQ lies in [4, 127] and its product with F below the VCO's 900 MHz (R172).
-/
theorem quadDivider_bounds {F : Int} (hF : 1 ≤ F) (hhi : F ≤ 199999999) :
    4 ≤ quadDivider F ∧ quadDivider F ≤ 127 ∧ quadDivider F * F ≤ 900000000 ∧
      (F ≤ 100000000 → 9 ≤ quadDivider F) ∧ (1400000 ≤ F → 175000000 ≤ quadDivider F * F) := by
  have le_quot {a k : Int} (h : k * F ≤ a) : k ≤ a / F := (Int.le_ediv_iff_mul_le (by omega)).mpr h
  have quot_le {a k : Int} (h : a < (k + 1) * F) : a / F ≤ k :=
    Int.lt_add_one_iff.mp (Int.ediv_lt_of_lt_mul (by omega) h)
  have product (a : Int) : a / F * F ≤ a ∧ a - F < a / F * F := by
    have := Int.emod_add_mul_ediv a F
    have := Int.emod_nonneg a (b := F) (by omega)
    have := Int.emod_lt_of_pos a (b := F) (by omega)
    rw [Int.mul_comm]
    omega
  rw [quadDivider_eq hF]
  split_ifs with h1 h2
  · omega
  · have lo : 9 ≤ 625000000 / F := le_quot (by omega)
    have hi : 625000000 / F ≤ 127 := quot_le (by omega)
    have := product 625000000
    omega
  · have lo : 4 ≤ 900000000 / F := le_quot (by omega)
    have hi : 900000000 / F ≤ 127 := quot_le (by omega)
    have := product 900000000
    exact ⟨lo, hi, by omega, fun h => le_quot (by omega), fun h => by omega⟩

theorem solveQuad_eq {f c : Int} (hlo : -99999999 ≤ c) (hhi : c ≤ 99999999) {F : Int}
    (hF : F = calQuad (clamp f 1400000 100000000) c) :
    solveQuad f c =
      { pc := ⟨quadDivider F * F / 25000000, quadDivider F * F % 25000000 / 24, 1041666⟩
        dc := ⟨quadDivider F, 0, 1, false, 0⟩
        freq := F } := by
  have bounds := calQuad_clamp_bounds hlo hhi f
  rw [← hF] at bounds
  have d4 := (quadDivider_bounds bounds.1 bounds.2).1
  have hn : 0 ≤ quadDivider F * F := Int.mul_nonneg (by omega) (by omega)
  rw [solveQuad, ← hF, pllFor_eq hn]

/-! ### Ranges (R146, R172) -/

theorem solveLow_ranges {F : Int} (hF : 1 ≤ F) :
    0 ≤ 900000000 % F / lowFactor F ∧ 900000000 % F / lowFactor F ≤ F / lowFactor F ∧
      1 ≤ F / lowFactor F ∧ F / lowFactor F < 2 ^ 20 ∧
      1 ≤ lowFactor F := by
  have ht : 1 ≤ lowFactor F := by unfold lowFactor; omega
  have hr : 0 ≤ 900000000 % F := Int.emod_nonneg _ (by omega)
  have hrF : 900000000 % F < F := Int.emod_lt_of_pos _ (by omega)
  refine ⟨Int.ediv_nonneg hr (by omega), Int.ediv_le_ediv (by omega) hrF.le,
    (Int.le_ediv_iff_mul_le (by omega)).mpr ?_, Int.ediv_lt_of_lt_mul (by omega) ?_, ht⟩
  · unfold lowFactor; omega
  · unfold lowFactor; omega

/-- Settles O30, by the branch of SOLVE1. -/
theorem solveRanges : Obligations.SolveRanges := by
  intro f c hlo hhi
  obtain ⟨F, hF⟩ : ∃ F, F = calSingle (boosted f).1 c := ⟨_, rfl⟩
  obtain ⟨h1, h2⟩ := calSingle_boosted_bounds hlo hhi f
  simp only [solve1]
  rw [← hF] at h1 h2 ⊢
  split_ifs with hbranch
  · obtain ⟨n0, nd, d1, d2, -⟩ := solveLow_ranges h1
    have q1 : 1 ≤ 900000000 / F := (Int.le_ediv_iff_mul_le (by omega)).mpr (by omega)
    have q2 : 900000000 / F ≤ 900000000 := Int.ediv_le_self _ (by omega)
    rw [solveLow_eq h1]
    simp only [and_true]
    omega
  · rw [solveHigh_eq (by omega), ladder]
    split_ifs <;> simp only [and_true] <;> omega

/-- Settles O31. -/
theorem solveIqRanges : Obligations.SolveIqRanges := by
  intro f c hlo hhi
  obtain ⟨F, hF⟩ : ∃ F, F = calQuad (clamp f 1400000 100000000) c := ⟨_, rfl⟩
  obtain ⟨h1, h2⟩ := calQuad_clamp_bounds hlo hhi f
  rw [solveQuad_eq hlo hhi hF]
  rw [← hF] at h1 h2
  obtain ⟨d4, d127, dF, d9, n7⟩ := quadDivider_bounds h1 h2
  dsimp only
  refine ⟨h1, h2, d4, d127, dF, rfl, by omega, by omega, rfl, rfl, ?_⟩
  rintro rfl
  have hb := clamp_bounds (v := f) (lo := 1400000) (hi := 100000000) (by omega)
  rw [calQuad_zero] at hF
  rw [← hF] at hb
  have := n7 hb.1
  exact ⟨hb.1, hb.2, d9 hb.2, by omega, by omega⟩

end Sys2Proof.Machine
end

section
/-! The accuracy of the solver (40_solver.md R148, R173; 90_conflicts.md C3): the exact output of a
configuration against the adjusted frequency. -/

namespace Sys2Proof.Machine

/-- Dividing turns a bound on the error of a product into one on the error of the quotient. -/
theorem abs_div_sub_le {a x F e : ℚ} (hx : 0 < x) (h : |a - F * x| ≤ e * x) : |a / x - F| ≤ e := by
  have quotient : a / x - F = (a - F * x) / x := by field_simp
  rw [quotient, abs_div, abs_of_pos hx, div_le_iff₀ hx]
  exact h

/-- `fout` with R-divider 1 (R22). -/
theorem fout_rsel_zero (pc : PllConfig) (x n d : Int) (aim : Bool) :
    fout pc ⟨x, n, d, aim, 0⟩ =
      25000000 * (pc.mult + (pc.num : ℚ) / pc.denom) / (x + (n : ℚ) / d) := by
  simp [fout, refHz]

/-! ### A PLL against REF with an integer divider (R145, R170) -/

/-- The internal frequency of `pllFor n 24`: the factor 24 drops at most the remainder by 24, and
the rounded denominator adds at most 16 Hz, 25,000,000 being 24 × 1,041,666 + 16. -/
theorem ref_mul_pll_bounds (n : Int) :
    (n - (n % 25000000 % 24 : Int) : ℚ) ≤
      25000000 * ((n / 25000000 : Int) + ((n % 25000000 / 24 : Int) : ℚ) / 1041666) ∧
    25000000 * ((n / 25000000 : Int) + ((n % 25000000 / 24 : Int) : ℚ) / 1041666) ≤
      (n + 16 : ℚ) := by
  obtain ⟨q, hq⟩ : ∃ q, q = n / 25000000 := ⟨_, rfl⟩
  obtain ⟨m, hm⟩ : ∃ m, m = n % 25000000 / 24 := ⟨_, rfl⟩
  obtain ⟨r, hr⟩ : ∃ r, r = n % 25000000 % 24 := ⟨_, rfl⟩
  rw [← hq, ← hm, ← hr]
  have split : (n : ℚ) = 25000000 * q + 24 * m + r := by
    have : n = 25000000 * q + 24 * m + r := by omega
    exact_mod_cast this
  have m0 : (0 : ℚ) ≤ m := by exact_mod_cast (by omega : 0 ≤ m)
  have m1 : (m : ℚ) ≤ 1041666 := by exact_mod_cast (by omega : m ≤ 1041666)
  have r0 : (0 : ℚ) ≤ r := by exact_mod_cast (by omega : 0 ≤ r)
  constructor <;> linarith

/-- With an integer divider x and R-divider 1 the output is the internal frequency divided by x: its
error is that of the PLL divided by x. -/
theorem fout_integerDivider_error {x F : Int} {e : ℚ} (aim : Bool) (hx : 0 < x)
    (hlo : ((x * F % 25000000 % 24 : Int) : ℚ) ≤ e * x) (hhi : 16 ≤ e * x) :
    |fout ⟨x * F / 25000000, x * F % 25000000 / 24, 1041666⟩ ⟨x, 0, 1, aim, 0⟩ - F| ≤ e := by
  have hx' : (0 : ℚ) < x := by exact_mod_cast hx
  obtain ⟨lo, hi⟩ := ref_mul_pll_bounds (x * F)
  rw [fout_rsel_zero, Int.cast_zero, zero_div, add_zero]
  refine abs_div_sub_le hx' (abs_le.mpr ?_)
  push_cast at lo hi hlo ⊢
  constructor <;> linarith

/-- Settles O33: on each rung the ladder's divider is large enough for the PLL's error; for 4 the
remainder by 24 is a multiple of 4. -/
theorem highBranchAccuracy : Obligations.HighBranchAccuracy := by
  intro F hlo hhi
  dsimp only
  rw [solveHigh_eq (by omega), ladder]
  split_ifs with h1 h2
  · refine fout_integerDivider_error true (by omega) ?_ (by norm_num)
    have : 4 * F % 25000000 % 24 ≤ 20 := by omega
    exact_mod_cast this
  · refine fout_integerDivider_error true (by omega) ?_ (by norm_num)
    have : 6 * F % 25000000 % 24 ≤ 30 := by omega
    exact_mod_cast this
  · refine fout_integerDivider_error true (by omega) ?_ (by norm_num)
    have : 8 * F % 25000000 % 24 ≤ 40 := by omega
    exact_mod_cast this

/-- Settles O34: the divider is at least 9, and the PLL's error at most 23 Hz. -/
theorem quadratureAccuracy : Obligations.QuadratureAccuracy := by
  intro f
  obtain ⟨F, hF⟩ : ∃ F, F = calQuad (clamp f 1400000 100000000) 0 := ⟨_, rfl⟩
  have hb := clamp_bounds (v := f) (lo := 1400000) (hi := 100000000) (by omega)
  rw [← calQuad_zero (clamp f 1400000 100000000), ← hF] at hb
  obtain ⟨d4, -, -, d9, -⟩ := quadDivider_bounds (F := F) (by omega) (by omega)
  dsimp only
  rw [solveQuad_eq (by omega) (by omega) hF]
  have nine : (9 : ℚ) ≤ quadDivider F := by exact_mod_cast d9 hb.2
  refine fout_integerDivider_error false (by omega) ?_ (by linarith)
  have : ((quadDivider F * F % 25000000 % 24 : Int) : ℚ) ≤ 23 := by
    exact_mod_cast (by omega : quadDivider F * F % 25000000 % 24 ≤ 23)
  linarith

/-! ### The low branch (R145, R148, C3) -/

/-- Replacing a by m and F by d, their quotients by t, in A / F = q + a / F costs less than t in
A − F (q + m/d), the remainders r and g being below t. -/
theorem quotient_error {A F q a m r d g t : Int} {e : ℚ} (hA : A = q * F + a) (ha : a = t * m + r)
    (hF : F = t * d + g) (hr : 0 ≤ r ∧ r < t) (hg : 0 ≤ g ∧ g < t) (hm : 0 ≤ m ∧ m ≤ d) (hd : 1 ≤ d)
    (hq : 1 ≤ q) (he : 0 ≤ e) (ht : ((t - 1 : Int) : ℚ) ≤ e * q) :
    |(A : ℚ) / (q + (m : ℚ) / d) - F| ≤ e := by
  have hd' : (0 : ℚ) < d := by exact_mod_cast (by omega : 0 < d)
  have hq' : (0 : ℚ) < q := by exact_mod_cast (by omega : 0 < q)
  have hm' : (0 : ℚ) ≤ m ∧ (m : ℚ) ≤ d := by exact_mod_cast hm
  have hr' : (0 : ℚ) ≤ r ∧ (r : ℚ) ≤ (t - 1 : Int) := by
    exact_mod_cast (by omega : 0 ≤ r ∧ r ≤ t - 1)
  have hg' : (0 : ℚ) ≤ g ∧ (g : ℚ) ≤ (t - 1 : Int) := by
    exact_mod_cast (by omega : 0 ≤ g ∧ g ≤ t - 1)
  obtain ⟨y, hy⟩ : ∃ y, y = (m : ℚ) / d := ⟨_, rfl⟩
  have hy0 : 0 ≤ y := hy ▸ div_nonneg hm'.1 hd'.le
  have hy1 : y ≤ 1 := hy ▸ div_le_one_of_le₀ hm'.2 hd'.le
  have hyd : y * d = m := by rw [hy, div_mul_cancel₀ _ hd'.ne']
  have error : (A : ℚ) - F * (q + y) = r - g * y := by
    rw [hA, ha]
    push_cast
    rw [hF, ← hyd]
    push_cast
    ring
  have hgy : 0 ≤ g * y ∧ g * y ≤ g :=
    ⟨mul_nonneg hg'.1 hy0, mul_le_of_le_one_right hg'.1 hy1⟩
  have hey : 0 ≤ e * y := mul_nonneg he hy0
  rw [← hy]
  refine abs_div_sub_le (by linarith) ?_
  rw [error, abs_le, mul_add]
  constructor <;> linarith

/-- The error of the low branch is bounded by its reduction factor, less one, over the integer part
of its divider. -/
theorem fout_solveLow_error {F : Int} {e : ℚ} (hF : 1 ≤ F) (hq : 1 ≤ 900000000 / F) (he : 0 ≤ e)
    (ht : ((lowFactor F - 1 : Int) : ℚ) ≤ e * (900000000 / F : Int)) :
    |fout (solveLow F 0).pc (solveLow F 0).dc - F| ≤ e := by
  obtain ⟨n0, nd, d1, -, t1⟩ := solveLow_ranges hF
  have remainder (v : Int) : 0 ≤ v % lowFactor F ∧ v % lowFactor F < lowFactor F :=
    ⟨Int.emod_nonneg _ (by omega), Int.emod_lt_of_pos _ (by omega)⟩
  have bound := quotient_error (A := 900000000) (Int.ediv_mul_add_emod _ F).symm
    (Int.mul_ediv_add_emod _ (lowFactor F)).symm (Int.mul_ediv_add_emod _ (lowFactor F)).symm
    (remainder _) (remainder _) ⟨n0, nd⟩ d1 hq he ht
  rw [solveLow_eq hF, fout_rsel_zero]
  norm_num at bound ⊢
  exact bound

/-- Settles O32: t − 1 is at most 77 below 81 MHz, where the divider is at least 11, and at most 71
up to 75 MHz, where it is at least 12. -/
theorem lowBranchAccuracy : Obligations.LowBranchAccuracy := by
  intro F hlo hhi
  have quotient {k : Int} (h : k * F ≤ 900000000) : k ≤ 900000000 / F :=
    (Int.le_ediv_iff_mul_le (by omega)).mpr h
  have q11 : 11 ≤ 900000000 / F := quotient (by omega)
  have factor : lowFactor F - 1 = F / 2 ^ 20 := by rw [lowFactor]; omega
  refine ⟨fout_solveLow_error (by omega) (by omega) (by norm_num) ?_, fun h75 =>
    fout_solveLow_error (by omega) (by omega) (by norm_num) ?_⟩
  · have : lowFactor F - 1 ≤ 7 * (900000000 / F) := by omega
    exact_mod_cast this
  · have q12 : 12 ≤ 900000000 / F := quotient (by omega)
    have : lowFactor F - 1 ≤ 6 * (900000000 / F) := by omega
    exact_mod_cast this

end Sys2Proof.Machine
end

section
/-! The commands that solve (40_solver.md R155, R174; 42_protocol.md R275, R276): their results, the
hazard of a high quadrature frequency (R358), and the obligations on them. -/

namespace Sys2Proof.Machine

/-! ### SOLVE and SOLVE_IQ (R155, R174) -/

theorem exec_solve (s : State) :
    exec .solve s =
      .next (endedWith .noError (solveResults (solve1 (signedArg0 s) (calibration s))) s.cal
        s) := by
  rw [exec_eq_execPlan, planOf, execPlan_ok, launch_results]

theorem exec_solveIq (s : State) :
    exec .solveIq s =
      .next (endedWith .noError (solveResults (solveQuad (signedArg0 s) (calibration s))) s.cal
        s) := by
  rw [exec_eq_execPlan, planOf, execPlan_ok, launch_results]

theorem clamp_eq_max_min {v lo hi : Int} (h : lo ≤ hi) : clamp v lo hi = max lo (min v hi) := by
  unfold clamp
  omega

/-- The target of SOLVE1 and its R-divider selector: below 1 MHz boosted by 64, selector 6 (R145).
-/
theorem boosted_eq {f c : Int} (hc : c = max 8000 (min f 160000000)) :
    boosted f = if c < 1000000 then (c * 64, 6) else (c, 0) := by
  rw [boosted, clamp_eq_max_min (by omega), ← hc]

/-- SOLVE1 by its branch, with the selector of its target (R145). -/
theorem solve1_eq {f c F : Int} (hF : F = calSingle (boosted f).1 c) :
    solve1 f c = if F < 81000000 then solveLow F (boosted f).2 else solveHigh F (boosted f).2 := by
  rw [solve1, ← hF]

/-- Settles O28. -/
theorem solveResult : Obligations.SolveResult := by
  intro s hcal c b F t x hc hb hF ht hx
  obtain ⟨hlo, hhi⟩ : -99999999 ≤ calibration s ∧ calibration s ≤ 99999999 := hcal
  have target := boosted_eq (f := signedArg0 s) hc
  have hb' : b = (boosted (signedArg0 s)).1 := by
    rw [target, hb]
    split_ifs <;> rfl
  have hF' : F = calSingle (boosted (signedArg0 s)).1 (calibration s) := by
    rw [hF, hb', calSingle, quot_of_ne (by omega)]
    rfl
  have bounds := calSingle_boosted_bounds hlo hhi (signedArg0 s)
  rw [← hF'] at bounds
  have sel : 0#28 ++ BitVec.ofBool true ++ (boosted (signedArg0 s)).2 =
      if c < 1000000 then (0xE : Word) else 0x8 := by
    rw [target]
    split_ifs <;> simp
  have hladder : ladder F = x := hx.symm
  rw [exec_solve, solve1_eq hF', ← sel]
  split_ifs with hbranch
  · rw [solveLow_eq bounds.1, lowFactor, ← ht]
    rfl
  · rw [solveHigh_eq (by omega), hladder]
    rfl

/-- Settles O29. -/
theorem solveIqResult : Obligations.SolveIqResult := by
  intro s hcal c F x hc hF hx
  obtain ⟨hlo, hhi⟩ : -99999999 ≤ calibration s ∧ calibration s ≤ 99999999 := hcal
  have target : clamp (signedArg0 s) 1400000 100000000 = c := by
    rw [clamp_eq_max_min (by omega), hc]
    rfl
  have hF' : F = calQuad (clamp (signedArg0 s) 1400000 100000000) (calibration s) := by
    rw [target, hF, calQuad, quot_of_pos (a := c) (by omega) (by omega), quot_of_ne (by omega)]
    rfl
  have bounds := calQuad_clamp_bounds hlo hhi (signedArg0 s)
  have noSel : 0#28 ++ BitVec.ofBool false ++ (0 : BitVec 3) = (0 : Word) := by decide
  rw [hx, ← quadDivider_eq (by rw [hF']; exact bounds.1), exec_solveIq, solveQuad_eq hlo hhi hF',
    solveResults, noSel]
  rfl

/-- Settles O35: above 100 MHz the divider is 900,000,000 / F, at most 8, with fraction 0. -/
theorem quadAbove100MHzRefused : Obligations.QuadAbove100MHzRefused := by
  intro s f c chan p d rsel ph hlo hhi hfreq hchan h0 h1
  obtain ⟨F, hF⟩ : ∃ F, F = calQuad (clamp f 1400000 100000000) c := ⟨_, rfl⟩
  have bounds := calQuad_clamp_bounds hlo hhi f
  rw [← hF] at bounds
  rw [solveQuad_eq hlo hhi hF] at hfreq h0 h1
  dsimp only at hfreq h0 h1
  obtain ⟨d4, -⟩ := quadDivider_bounds bounds.1 bounds.2
  have d8 : quadDivider F ≤ 8 := by
    rw [quadDivider_eq bounds.1, if_neg (by omega), if_neg (by omega)]
    exact Int.lt_add_one_iff.mp (Int.ediv_lt_of_lt_mul (by omega) (by omega))
  refine exec_setupOutput_error rfl (outputWrites_unsupportedMode hchan rfl ?_)
  rw [integerOnly_iff, h0, h1, BitVec.toNat_ofInt, BitVec.toNat_ofInt]
  omega

/-! ### SETUP_CLK0 and SETUP_CLK2 (R275, R276) -/

/-- A value of a solution is held by its result register as it is (R146, R150). -/
theorem u32_toNat_ne_zero {v : Int} (h1 : 1 ≤ v) (h2 : v < 2 ^ 20) : (u32 v).toNat ≠ 0 := by
  rw [u32, BitVec.toNat_ofInt]
  omega

/-- RES6 holds AIM in bit 3 and RSEL in bits 2:0 (R150). -/
theorem solveResults_r6 (r : Solution) :
    (solveResults r).r6.getLsbD 3 = r.dc.aim ∧ (solveResults r).r6.extractLsb' 0 3 = r.dc.rsel := by
  constructor
  · simp only [solveResults, BitVec.getLsbD_append, ofBool_getLsbD]
    simp
  · apply BitVec.eq_of_toNat_eq
    have := r.dc.rsel.isLt
    simp only [solveResults, BitVec.extractLsb'_toNat, append_toNat, Nat.shiftRight_zero]
    omega

/-- A wrapper with a solution whose list can be built: SETUP_PLL's writes and SETUP_OUTPUT's, in
this order, the results pending. -/
theorem planClk_eq {d : DevMap} {chan : Byte} {p : Pll} {drive : BitVec 2} {r : Solution}
    {ws vs : List Write}
    (hws : pllWrites d p (u32 r.pc.mult) (u32 r.pc.num) (u32 r.pc.denom) = .ok ws)
    (hvs : outputWrites d chan p drive (u32 r.dc.div) (u32 r.dc.num) (u32 r.dc.denom) r.dc.aim
      r.dc.rsel 0 = .ok vs) :
    planClk d chan p drive r = .ok ⟨some ⟨some (solveResults r), none, false⟩, ws ++ vs⟩ := by
  rw [planClk, hws]
  simp only [hvs]

/-- Settles O44: no check fails for a solution of SOLVE1, whose denominators are not 0 and whose
divider is for integer mode. -/
theorem clockWrappersCompose : Obligations.ClockWrappersCompose := by
  intro d s hcal
  obtain ⟨hlo, hhi⟩ : -99999999 ≤ calibration s ∧ calibration s ≤ 99999999 := hcal
  obtain ⟨r, hr⟩ : ∃ r, r = solve1 (signedArg0 s) (calibration s) := ⟨_, rfl⟩
  obtain ⟨-, -, -, -, -, -, p1, p2, -, -, -, -, d1, d2, haim⟩ :=
    solveRanges (signedArg0 s) (calibration s) hlo hhi
  rw [← hr] at p1 p2 d1 d2 haim
  refine ⟨solveResults r, by rw [exec_solve, ← hr], fun i p chan hi => ?_⟩
  have hchan : chan.toNat ≤ 2 := by
    rcases hi with ⟨-, -, rfl⟩ | ⟨-, -, rfl⟩ <;> decide
  have hpll := u32_toNat_ne_zero p1 p2
  obtain ⟨ws, hws⟩ : ∃ ws, pllWrites s.par.dev p (u32 r.pc.mult) (u32 r.pc.num) (u32 r.pc.denom) =
    .ok ws := ⟨_, pllWrites_ok hpll⟩
  obtain ⟨vs, hvs⟩ : ∃ vs, outputWrites s.par.dev chan p d (u32 r.dc.div) (u32 r.dc.num)
      (u32 r.dc.denom) r.dc.aim r.dc.rsel 0 = .ok vs := by
    obtain ⟨k, hk, -⟩ := deriveP_div_bytes (div := u32 r.dc.div) (num := u32 r.dc.num)
      (.inl (u32_toNat_ne_zero d1 d2)) r.dc.rsel
    exact ⟨_, outputWrites_ok hchan (by simp [haim]) hk⟩
  have hlen : (ws ++ vs).length = 19 := by
    rw [List.length_append, pllWrites_length hws, outputWrites_length hvs]
  have hne : ws ++ vs ≠ [] := List.ne_nil_of_length_pos (by omega)
  obtain ⟨aim, rsel⟩ := solveResults_r6 r
  refine ⟨ws, vs, ?_, ?_, ?_, hlen⟩
  · cases (pllWrites_ok hpll).symm.trans hws
    exact exec_setupPll_ok hpll
  · rw [aim, rsel]
    exact exec_setupOutput_ok hvs
  · have plan : planOf i s = planClk s.par.dev chan p d r := by
      rcases hi with ⟨rfl, rfl, rfl⟩ | ⟨rfl, rfl, rfl⟩ <;> rw [planOf, hr]
    rw [exec_eq_execPlan, plan, planClk_eq hws hvs, execPlan_ok, launch_issuing hne]

end Sys2Proof.Machine
end
